-- ==== Sys2Proof/Word.lean ====
section
/-! DEFINITION. The word types of the machine (rules R5, R6 of 00_scope.md): everything is unsigned. -/

namespace Sys2Proof

/-- A byte of memory, a general register, a timer, a key code (R20, R28, R29, R50). -/
abbrev Byte := BitVec 8

/-- A 16-bit value: an instruction word, `PC`, `I`, a call stack slot, `FAULT_INFO` (R5, R22, R25, R26, R32). -/
abbrev Word := BitVec 16

/-- A nibble: a register index `x` or `y`, the height `n`, a call stack slot number (R27, R71). -/
abbrev Nibble := BitVec 4

/-- A 12-bit address field `nnn` (R71). -/
abbrev Addr12 := BitVec 12

end Sys2Proof
end

