-- ==== Sys2Proof/Syntax.lean ====
section
/-! DEFINITION. The 34 instructions (rule R74 of 30_encoding.md), their mnemonics and operand classes, and the source form of an
instruction: a mnemonic with its operands as plain numbers, as the assembler hands them to packing (rules R72, R84, R85). -/

namespace Sys2Proof

/-- One constructor for each row of spec/opcode_table.json, in its order. `x`, `y` are register indices, `nn` an 8-bit immediate,
`n` a 4-bit height, `nnn` a 12-bit address (R71). SHR and SHL have one operand: their `y` field is ignored (R78). -/
inductive Instr where
  /-- CLS (R150) -/
  | cls
  /-- RET (R100) -/
  | ret
  /-- JUMP nnn (R101) -/
  | jump (nnn : Addr12)
  /-- CALL nnn (R102) -/
  | call (nnn : Addr12)
  /-- SKE x,nn (R103) -/
  | ske (x : Nibble) (nn : Byte)
  /-- SKNE x,nn (R104) -/
  | skne (x : Nibble) (nn : Byte)
  /-- SKRE x,y (R105) -/
  | skre (x y : Nibble)
  /-- LOAD x,nn (R120) -/
  | load (x : Nibble) (nn : Byte)
  /-- ADD x,nn (R121) -/
  | add (x : Nibble) (nn : Byte)
  /-- MOVE x,y (R122) -/
  | move (x y : Nibble)
  /-- OR x,y (R123) -/
  | or (x y : Nibble)
  /-- AND x,y (R124) -/
  | and (x y : Nibble)
  /-- XOR x,y (R125) -/
  | xor (x y : Nibble)
  /-- ADDR x,y (R126) -/
  | addr (x y : Nibble)
  /-- SUB x,y (R127) -/
  | sub (x y : Nibble)
  /-- SHR x (R128) -/
  | shr (x : Nibble)
  /-- SUBB x,y (R129) -/
  | subb (x y : Nibble)
  /-- SHL x (R130) -/
  | shl (x : Nibble)
  /-- JNEQ x,y (R106) -/
  | jneq (x y : Nibble)
  /-- LOADI nnn (R140) -/
  | loadi (nnn : Addr12)
  /-- JUMPI nnn (R108) -/
  | jumpi (nnn : Addr12)
  /-- RAND x,nn (R132) -/
  | rand (x : Nibble) (nn : Byte)
  /-- DRAW x,y,n (R151) -/
  | draw (x y n : Nibble)
  /-- SKPR x (R160) -/
  | skpr (x : Nibble)
  /-- SKUP x (R161) -/
  | skup (x : Nibble)
  /-- MOVED x (R162) -/
  | moved (x : Nibble)
  /-- KEYD x (R163) -/
  | keyd (x : Nibble)
  /-- LOADD x (R164) -/
  | loadd (x : Nibble)
  /-- LOADS x (R165) -/
  | loads (x : Nibble)
  /-- ADDI x (R141) -/
  | addi (x : Nibble)
  /-- LDSPR x (R142) -/
  | ldspr (x : Nibble)
  /-- BCD x (R143) -/
  | bcd (x : Nibble)
  /-- PUSH x (R145) -/
  | push (x : Nibble)
  /-- POP x (R146) -/
  | pop (x : Nibble)
  deriving DecidableEq, Repr

/-- The 34 keywords (R74, R89: there are no others). -/
inductive Mnemonic where
  | cls | ret | jump | call | ske | skne | skre | load | add | move | or | and | xor | addr | sub | shr | subb | shl | jneq
  | loadi | jumpi | rand | draw | skpr | skup | moved | keyd | loadd | loads | addi | ldspr | bcd | push | pop
  deriving DecidableEq, Repr

/-- The six operand classes (R72). -/
inductive OperandClass where
  /-- no operands -/
  | a
  /-- `nnn` -/
  | b
  /-- `x`, `nn` -/
  | c
  /-- `x`, `y` -/
  | d
  /-- `x` -/
  | e
  /-- `x`, `y`, `n` -/
  | f
  deriving DecidableEq, Repr

/-- The keyword of an instruction (R74). -/
def Instr.mnemonic : Instr → Mnemonic
  | .cls => .cls
  | .ret => .ret
  | .jump _ => .jump
  | .call _ => .call
  | .ske _ _ => .ske
  | .skne _ _ => .skne
  | .skre _ _ => .skre
  | .load _ _ => .load
  | .add _ _ => .add
  | .move _ _ => .move
  | .or _ _ => .or
  | .and _ _ => .and
  | .xor _ _ => .xor
  | .addr _ _ => .addr
  | .sub _ _ => .sub
  | .shr _ => .shr
  | .subb _ _ => .subb
  | .shl _ => .shl
  | .jneq _ _ => .jneq
  | .loadi _ => .loadi
  | .jumpi _ => .jumpi
  | .rand _ _ => .rand
  | .draw _ _ _ => .draw
  | .skpr _ => .skpr
  | .skup _ => .skup
  | .moved _ => .moved
  | .keyd _ => .keyd
  | .loadd _ => .loadd
  | .loads _ => .loads
  | .addi _ => .addi
  | .ldspr _ => .ldspr
  | .bcd _ => .bcd
  | .push _ => .push
  | .pop _ => .pop

/-- The operands of an instruction in the order of the source text (R85). -/
def Instr.operands : Instr → List Nat
  | .cls | .ret => []
  | .jump nnn | .call nnn | .loadi nnn | .jumpi nnn => [nnn.toNat]
  | .ske x nn | .skne x nn | .load x nn | .add x nn | .rand x nn => [x.toNat, nn.toNat]
  | .skre x y | .move x y | .or x y | .and x y | .xor x y | .addr x y | .sub x y | .subb x y | .jneq x y => [x.toNat, y.toNat]
  | .draw x y n => [x.toNat, y.toNat, n.toNat]
  | .shr x | .shl x | .skpr x | .skup x | .moved x | .keyd x | .loadd x | .loads x | .addi x | .ldspr x | .bcd x | .push x
  | .pop x => [x.toNat]

/-- The operand class of a keyword (R72; SHR and SHL are in class D although they take one operand). -/
def Mnemonic.operandClass : Mnemonic → OperandClass
  | .cls | .ret => .a
  | .jump | .call | .loadi | .jumpi => .b
  | .ske | .skne | .load | .add | .rand => .c
  | .skre | .move | .or | .and | .xor | .addr | .sub | .shr | .subb | .shl | .jneq => .d
  | .skpr | .skup | .moved | .keyd | .loadd | .loads | .addi | .ldspr | .bcd | .push | .pop => .e
  | .draw => .f

/-- An instruction as the assembler has it after operand conversion (R83): a keyword and its operands as unsigned integers, not
yet checked against anything (R82, R84). -/
structure SourceInstr where
  mnemonic : Mnemonic
  operands : List Nat
  deriving DecidableEq, Repr

/-- The source form of an instruction. -/
def Instr.source (i : Instr) : SourceInstr :=
  ⟨i.mnemonic, i.operands⟩

end Sys2Proof
end

