-- ==== Sys2Proof/WellFormed.lean ====
section
/-! DEFINITION. Well-formed source instructions: the operand count of rule R85 and the operand ranges of rule R84 ("A well-formed
program keeps `x`, `y`, `n` at most 0xF and `nn` at most 0xFF"; class B and class E mask, so their operands are checked against
the width of their field, 12 and 4 bits). An Instr carries its operands in the widths of its fields, so every Instr is
well-formed: Instr.source i passes these checks. -/

namespace Sys2Proof

/-- Does the number fit a register index or a height (4 bits, R71)? -/
def fitsNibble (k : Nat) : Bool := decide (k ≤ 0xF)

/-- Does the number fit an immediate `nn` (8 bits, R71)? -/
def fitsByte (k : Nat) : Bool := decide (k ≤ 0xFF)

/-- Does the number fit an address `nnn` (12 bits, R71)? -/
def fitsAddr (k : Nat) : Bool := decide (k ≤ 0xFFF)

/-- SHR and SHL take one register although they are in class D (R78, R85). -/
def Mnemonic.ignoresY : Mnemonic → Bool
  | .shr | .shl => true
  | _ => false

/-- Operand count (R85) and ranges (R84) in one check. -/
def SourceInstr.wellFormed (src : SourceInstr) : Bool :=
  match src.mnemonic.operandClass, src.operands with
  | .a, [] => true
  | .b, [nnn] => fitsAddr nnn
  | .c, [x, nn] => fitsNibble x && fitsByte nn
  | .d, [x] => src.mnemonic.ignoresY && fitsNibble x
  | .d, [x, y] => !src.mnemonic.ignoresY && (fitsNibble x && fitsNibble y)
  | .e, [x] => fitsNibble x
  | .f, [x, y, n] => fitsNibble x && (fitsNibble y && fitsNibble n)
  | _, _ => false

/-- The same of an instruction (always true: lemma `wellFormed_of_instr`). -/
def Instr.wellFormed (i : Instr) : Bool := i.source.wellFormed

end Sys2Proof
end

