-- ==== Sys2Proof/Decode.lean ====
section
/-! DEFINITION. Decoding (rules R70, R71, R73, R76, R77, R78), then encoding (R72, R74), the opcode map itself (R74) and the
packing of source operands (R72, R84 to R86). Decoding is total: a word is an instruction or is refused by name. -/

namespace Sys2Proof

/-- Why bytes are no instruction. -/
inductive DecodeError where
  /-- the word matches no row of rule R74 (R77) -/
  | unrecognized (op : Word)
  /-- fewer than the two bytes every instruction has (R70) -/
  | truncated (bytesLeft : Nat)
  deriving DecidableEq, Repr

/-- `top`, bits 15 to 12 (R71). -/
def opTop (op : Word) : Nibble := op.extractLsb' 12 4

/-- `x`, bits 11 to 8 (R71). -/
def opX (op : Word) : Nibble := op.extractLsb' 8 4

/-- `y`, bits 7 to 4 (R71). -/
def opY (op : Word) : Nibble := op.extractLsb' 4 4

/-- `n`, bits 3 to 0 (R71). -/
def opN (op : Word) : Nibble := op.extractLsb' 0 4

/-- `nn`, bits 7 to 0 (R71). -/
def opNn (op : Word) : Byte := op.extractLsb' 0 8

/-- `nnn`, bits 11 to 0 (R71). -/
def opNnn (op : Word) : Addr12 := op.extractLsb' 0 12

/-- Group 0x0: the whole word must match (R73, the spec's decision D10). -/
def decodeGroup0 (op : Word) : Except DecodeError Instr :=
  if op = 0x00E0#16 then .ok .cls
  else if op = 0x00EE#16 then .ok .ret
  else .error (.unrecognized op)

/-- Group 0x8: the low nibble selects (R73, conflict C4); SHR and SHL drop `y` (R78). -/
def decodeGroup8 (op : Word) : Except DecodeError Instr :=
  match opN op with
  | 0x0#4 => .ok (.move (opX op) (opY op))
  | 0x1#4 => .ok (.or (opX op) (opY op))
  | 0x2#4 => .ok (.and (opX op) (opY op))
  | 0x3#4 => .ok (.xor (opX op) (opY op))
  | 0x4#4 => .ok (.addr (opX op) (opY op))
  | 0x5#4 => .ok (.sub (opX op) (opY op))
  | 0x6#4 => .ok (.shr (opX op))
  | 0x7#4 => .ok (.subb (opX op) (opY op))
  | 0xE#4 => .ok (.shl (opX op))
  | _ => .error (.unrecognized op)

/-- Group 0xE: the low byte selects (R73). -/
def decodeGroupE (op : Word) : Except DecodeError Instr :=
  match opNn op with
  | 0x9E#8 => .ok (.skpr (opX op))
  | 0xA1#8 => .ok (.skup (opX op))
  | _ => .error (.unrecognized op)

/-- Group 0xF: the low byte selects (R73). -/
def decodeGroupF (op : Word) : Except DecodeError Instr :=
  match opNn op with
  | 0x07#8 => .ok (.moved (opX op))
  | 0x0A#8 => .ok (.keyd (opX op))
  | 0x15#8 => .ok (.loadd (opX op))
  | 0x18#8 => .ok (.loads (opX op))
  | 0x1E#8 => .ok (.addi (opX op))
  | 0x29#8 => .ok (.ldspr (opX op))
  | 0x33#8 => .ok (.bcd (opX op))
  | 0x55#8 => .ok (.push (opX op))
  | 0x65#8 => .ok (.pop (opX op))
  | _ => .error (.unrecognized op)

/-- Decode one word by the algorithm of rule R73: branch on the top nibble; groups 5 and 9 need a low nibble 0 (decision D9). -/
def decode (op : Word) : Except DecodeError Instr :=
  match opTop op with
  | 0x0#4 => decodeGroup0 op
  | 0x1#4 => .ok (.jump (opNnn op))
  | 0x2#4 => .ok (.call (opNnn op))
  | 0x3#4 => .ok (.ske (opX op) (opNn op))
  | 0x4#4 => .ok (.skne (opX op) (opNn op))
  | 0x5#4 => if opN op = 0#4 then .ok (.skre (opX op) (opY op)) else .error (.unrecognized op)
  | 0x6#4 => .ok (.load (opX op) (opNn op))
  | 0x7#4 => .ok (.add (opX op) (opNn op))
  | 0x8#4 => decodeGroup8 op
  | 0x9#4 => if opN op = 0#4 then .ok (.jneq (opX op) (opY op)) else .error (.unrecognized op)
  | 0xA#4 => .ok (.loadi (opNnn op))
  | 0xB#4 => .ok (.jumpi (opNnn op))
  | 0xC#4 => .ok (.rand (opX op) (opNn op))
  | 0xD#4 => .ok (.draw (opX op) (opY op) (opN op))
  | 0xE#4 => decodeGroupE op
  | _ => decodeGroupF op

/-- The word of two bytes as they lie in memory: the byte at the lower address is the high byte (R54, R55). -/
def wordOfBytes (hi lo : Byte) : Word := hi ++ lo

/-- Decode the instruction at the head of a byte sequence and return the bytes after it (R70: always two bytes). -/
def decodeBytes : List Byte → Except DecodeError (Instr × List Byte)
  | hi :: lo :: rest =>
    match decode (wordOfBytes hi lo) with
    | .ok i => .ok (i, rest)
    | .error e => .error e
  | bytes => .error (.truncated bytes.length)

/-- The word of an instruction: template and operand fields of rules R72 and R74; SHR and SHL carry `y = 0` (R78). -/
def encode : Instr → Word
  | .cls => 0x00E0#16
  | .ret => 0x00EE#16
  | .jump nnn => 0x1#4 ++ nnn
  | .call nnn => 0x2#4 ++ nnn
  | .ske x nn => 0x3#4 ++ x ++ nn
  | .skne x nn => 0x4#4 ++ x ++ nn
  | .skre x y => 0x5#4 ++ x ++ y ++ 0x0#4
  | .load x nn => 0x6#4 ++ x ++ nn
  | .add x nn => 0x7#4 ++ x ++ nn
  | .move x y => 0x8#4 ++ x ++ y ++ 0x0#4
  | .or x y => 0x8#4 ++ x ++ y ++ 0x1#4
  | .and x y => 0x8#4 ++ x ++ y ++ 0x2#4
  | .xor x y => 0x8#4 ++ x ++ y ++ 0x3#4
  | .addr x y => 0x8#4 ++ x ++ y ++ 0x4#4
  | .sub x y => 0x8#4 ++ x ++ y ++ 0x5#4
  | .shr x => 0x8#4 ++ x ++ 0x0#4 ++ 0x6#4
  | .subb x y => 0x8#4 ++ x ++ y ++ 0x7#4
  | .shl x => 0x8#4 ++ x ++ 0x0#4 ++ 0xE#4
  | .jneq x y => 0x9#4 ++ x ++ y ++ 0x0#4
  | .loadi nnn => 0xA#4 ++ nnn
  | .jumpi nnn => 0xB#4 ++ nnn
  | .rand x nn => 0xC#4 ++ x ++ nn
  | .draw x y n => 0xD#4 ++ x ++ y ++ n
  | .skpr x => 0xE#4 ++ x ++ 0x9E#8
  | .skup x => 0xE#4 ++ x ++ 0xA1#8
  | .moved x => 0xF#4 ++ x ++ 0x07#8
  | .keyd x => 0xF#4 ++ x ++ 0x0A#8
  | .loadd x => 0xF#4 ++ x ++ 0x15#8
  | .loads x => 0xF#4 ++ x ++ 0x18#8
  | .addi x => 0xF#4 ++ x ++ 0x1E#8
  | .ldspr x => 0xF#4 ++ x ++ 0x29#8
  | .bcd x => 0xF#4 ++ x ++ 0x33#8
  | .push x => 0xF#4 ++ x ++ 0x55#8
  | .pop x => 0xF#4 ++ x ++ 0x65#8

/-- Emission: high byte first (R55, R86). -/
def bytesOfWord (op : Word) : List Byte := [op.extractLsb' 8 8, op.extractLsb' 0 8]

/-- The bytes an instruction occupies, in address order (R86). -/
def encodeBytes (i : Instr) : List Byte := bytesOfWord (encode i)

/-- A row of the opcode map: a word is this instruction iff its bits under the mask are the template's (R73, R74). -/
structure OpcodeRow where
  mnemonic : Mnemonic
  template : Word
  mask : Word
  deriving DecidableEq, Repr

/-- Does a word match a row (R73)? -/
def OpcodeRow.accepts (row : OpcodeRow) (op : Word) : Bool := (op &&& row.mask) == row.template

/-- The complete opcode map, in the order of rule R74. -/
def opcodeMap : List OpcodeRow :=
  [⟨.cls, 0x00E0, 0xFFFF⟩, ⟨.ret, 0x00EE, 0xFFFF⟩, ⟨.jump, 0x1000, 0xF000⟩, ⟨.call, 0x2000, 0xF000⟩,
    ⟨.ske, 0x3000, 0xF000⟩, ⟨.skne, 0x4000, 0xF000⟩, ⟨.skre, 0x5000, 0xF00F⟩, ⟨.load, 0x6000, 0xF000⟩,
    ⟨.add, 0x7000, 0xF000⟩, ⟨.move, 0x8000, 0xF00F⟩, ⟨.or, 0x8001, 0xF00F⟩, ⟨.and, 0x8002, 0xF00F⟩] ++
  [⟨.xor, 0x8003, 0xF00F⟩, ⟨.addr, 0x8004, 0xF00F⟩, ⟨.sub, 0x8005, 0xF00F⟩, ⟨.shr, 0x8006, 0xF00F⟩,
    ⟨.subb, 0x8007, 0xF00F⟩, ⟨.shl, 0x800E, 0xF00F⟩, ⟨.jneq, 0x9000, 0xF00F⟩, ⟨.loadi, 0xA000, 0xF000⟩,
    ⟨.jumpi, 0xB000, 0xF000⟩, ⟨.rand, 0xC000, 0xF000⟩, ⟨.draw, 0xD000, 0xF000⟩, ⟨.skpr, 0xE09E, 0xF0FF⟩] ++
  [⟨.skup, 0xE0A1, 0xF0FF⟩, ⟨.moved, 0xF007, 0xF0FF⟩, ⟨.keyd, 0xF00A, 0xF0FF⟩, ⟨.loadd, 0xF015, 0xF0FF⟩,
    ⟨.loads, 0xF018, 0xF0FF⟩, ⟨.addi, 0xF01E, 0xF0FF⟩, ⟨.ldspr, 0xF029, 0xF0FF⟩, ⟨.bcd, 0xF033, 0xF0FF⟩,
    ⟨.push, 0xF055, 0xF0FF⟩, ⟨.pop, 0xF065, 0xF0FF⟩]

/-- The canonical template of a keyword, its operand fields zero (R74). -/
def Mnemonic.template : Mnemonic → Word
  | .cls => 0x00E0
  | .ret => 0x00EE
  | .jump => 0x1000
  | .call => 0x2000
  | .ske => 0x3000
  | .skne => 0x4000
  | .skre => 0x5000
  | .load => 0x6000
  | .add => 0x7000
  | .move => 0x8000
  | .or => 0x8001
  | .and => 0x8002
  | .xor => 0x8003
  | .addr => 0x8004
  | .sub => 0x8005
  | .shr => 0x8006
  | .subb => 0x8007
  | .shl => 0x800E
  | .jneq => 0x9000
  | .loadi => 0xA000
  | .jumpi => 0xB000
  | .rand => 0xC000
  | .draw => 0xD000
  | .skpr => 0xE09E
  | .skup => 0xE0A1
  | .moved => 0xF007
  | .keyd => 0xF00A
  | .loadd => 0xF015
  | .loads => 0xF018
  | .addi => 0xF01E
  | .ldspr => 0xF029
  | .bcd => 0xF033
  | .push => 0xF055
  | .pop => 0xF065

/-- The template bits of an operand class (R72, R87). -/
def OperandClass.mask : OperandClass → Word
  | .a => 0xFFFF
  | .b | .c | .f => 0xF000
  | .d => 0xF00F
  | .e => 0xF0FF

/-- Fold numeric operands into a template by the class formulas of rules R72 and R84: class B masks its operand to 12 bits, class
E to 4, classes C, D and F mask nothing. None where the count is wrong: what the assembler does then is not stated (R85, N13). The
result is kept in the 16 bits an instruction has (R70; log entry 24). -/
def SourceInstr.pack (src : SourceInstr) : Option Word :=
  let t := src.mnemonic.template.toNat
  match src.mnemonic.operandClass, src.operands with
  | .a, [] => some (BitVec.ofNat 16 t)
  | .b, [op1] => some (BitVec.ofNat 16 (t ||| (op1 &&& 0xFFF)))
  | .c, [op1, op2] => some (BitVec.ofNat 16 (t ||| (op1 <<< 8) ||| op2))
  | .d, [op1] => if src.mnemonic.ignoresY then some (BitVec.ofNat 16 (t ||| (op1 <<< 8))) else none
  | .d, [op1, op2] => if src.mnemonic.ignoresY then none else some (BitVec.ofNat 16 (t ||| (op1 <<< 8) ||| (op2 <<< 4)))
  | .e, [op1] => some (BitVec.ofNat 16 (t ||| ((op1 &&& 0xF) <<< 8)))
  | .f, [op1, op2, op3] => some (BitVec.ofNat 16 (t ||| (op1 <<< 8) ||| (op2 <<< 4) ||| op3))
  | _, _ => none

/-- What the decoder reads from an instruction whose bits are `w`, `nbits` of them given: the word is laid out as the hardware
stores it, high byte first, and its bytes are decoded. -/
def decodeTableWord (nbits w : Nat) : Option Instr :=
  match decodeBytes (bytesOfWord (BitVec.ofNat 16 (w % 2 ^ nbits))) with
  | .ok (i, _) => some i
  | .error _ => none

end Sys2Proof
end

