-- ==== Sys2Proof/Machine/Cells.lean ====
section
/-! DEFINITION. A sparse array of bytes: a list of (address, byte) pairs. `d` says what an unlisted address holds. Writing keeps
the list sorted and drops an entry that would equal `d`, so that equal arrays are equal lists. Memory and the frame buffer are
both such arrays. -/

namespace Sys2Proof.Machine

/-- The byte at an address. -/
def cellsRead (d : Nat → Byte) : List Host.Cell → Nat → Byte
  | [], a => d a
  | (k, b) :: rest, a => if k = a then b else cellsRead d rest a

/-- Put an entry before the first entry of a higher address. -/
def cellsInsert (a : Nat) (b : Byte) : List Host.Cell → List Host.Cell
  | [] => [(a, b)]
  | (k, c) :: rest => if a < k then (a, b) :: (k, c) :: rest else (k, c) :: cellsInsert a b rest

/-- Take every entry of an address out. -/
def cellsErase (a : Nat) : List Host.Cell → List Host.Cell
  | [] => []
  | (k, c) :: rest => if k = a then cellsErase a rest else (k, c) :: cellsErase a rest

/-- Store a byte at an address. -/
def cellsWrite (d : Nat → Byte) (m : List Host.Cell) (a : Nat) (b : Byte) : List Host.Cell :=
  if b = d a then cellsErase a m else cellsInsert a b (cellsErase a m)

/-- The canonical form: addresses strictly rising, all below `size`, no entry equal to what its address holds unlisted. -/
abbrev cellsWf (d : Nat → Byte) (size : Nat) (m : List Host.Cell) : Prop :=
  m.Pairwise (fun p q => p.1 < q.1) ∧ ∀ c ∈ m, c.1 < size ∧ c.2 ≠ d c.1

end Sys2Proof.Machine
end

