-- ==== Sys2Proof/Config.lean ====
section
/-! DEFINITION. What is fixed for the machine (the parameters of rule R4) and its free values, the random byte and
the disassembler's placeholder line.
The font's place and bytes, which rule R4 lets a model take as parameters, stand in Sys2Proof/Machine/Font.lean. -/

namespace Sys2Proof

/-- `MEM_SIZE` (R4): valid addresses are 0 to 4095. -/
def Config.memSize : Nat := 4096

/-- `FB_WIDTH` (R4), in pixels. -/
def Config.fbWidth : Nat := 64

/-- `FB_HEIGHT` (R4), in pixels. -/
def Config.fbHeight : Nat := 32

/-- `RESET_PC` (R4, R22, R211). -/
def Config.resetPc : Word := 0x200

/-- `PROGRAM_ORIGIN` (R4, R58, R192; the spec's decision D1). -/
def Config.programOrigin : Nat := 0x200

/-- `KEY_RESET` (R4, R29; the spec's decision D20). -/
def Config.keyReset : Byte := 0

/-- `draw_byte()` (R7, R132): the byte the environment gives the RAND numbered by the argument when the host's schedule supplies
none. DESIGN CHOICE, safe: a FREE VALUE, nothing constrains it (log entry 3). -/
opaque Config.drawByte : Nat → Byte

/-- The placeholder line of a listing for an unknown word at an address (R92), whose text the spec does not give. DESIGN CHOICE, safe:
a FREE VALUE, nothing constrains it (log entry 32). -/
opaque Config.placeholderLine : Nat → Word → List Char

end Sys2Proof
end

