-- ==== Sys2Proof/Machine/Font.lean ====
section
/-! DEFINITION. The built-in font (rule R33): its place and its bytes, both the spec's own decisions (D2, D3; the bytes are general
knowledge G2), PRESUMED of the real machine (log entry 6). -/

namespace Sys2Proof.Machine

/-- `FONT_BASE` (R4, R33). -/
def fontBase : Nat := 0x000

/-- `GLYPH_BYTES` (R4). -/
def glyphBytes : Nat := 5

/-- `FONT_BYTES`, glyphs 0 to 7 (R33). -/
def fontBytesLow : List Byte :=
  [0xF0, 0x90, 0x90, 0x90, 0xF0, 0x20, 0x60, 0x20, 0x20, 0x70, 0xF0, 0x10, 0xF0, 0x80, 0xF0, 0xF0, 0x10, 0xF0, 0x10, 0xF0] ++
  [0x90, 0x90, 0xF0, 0x10, 0x10, 0xF0, 0x80, 0xF0, 0x10, 0xF0, 0xF0, 0x80, 0xF0, 0x90, 0xF0, 0xF0, 0x10, 0x20, 0x40, 0x40]

/-- `FONT_BYTES`, glyphs 8 to F (R33). -/
def fontBytesHigh : List Byte :=
  [0xF0, 0x90, 0xF0, 0x90, 0xF0, 0xF0, 0x90, 0xF0, 0x10, 0xF0, 0xF0, 0x90, 0xF0, 0x90, 0x90, 0xE0, 0x90, 0xE0, 0x90, 0xE0] ++
  [0xF0, 0x80, 0x80, 0x80, 0xF0, 0xE0, 0x90, 0x90, 0x90, 0xE0, 0xF0, 0x80, 0xF0, 0x80, 0xF0, 0xF0, 0x80, 0xF0, 0x80, 0x80]

/-- `FONT_BYTES` (R33): 80 bytes, glyph g first at `5 * g`. -/
def fontBytes : List Byte := fontBytesLow ++ fontBytesHigh

end Sys2Proof.Machine
end

