-- ==== Sys2Proof/Machine/State.lean ====
section
/-! DEFINITION. The Machine State of 10_state.md as plain data, its reset value (rule R37), the host's moves (rule R190) and the
reasons a step can stop. -/

namespace Sys2Proof.Machine

/-- The executor state (R32, R172). -/
inductive Status where
  | running
  | halted
  deriving DecidableEq, Repr

/-- `FAULT_CODE` (R32, R175), with the spec's numbers in the docstrings. -/
inductive FaultCode where
  /-- 0: no fault since reset -/
  | none
  /-- 1: the fetched word matches no row of the opcode map; raised by decode in any cycle -/
  | unrecognizedOpcode
  /-- 2: CALL with `SP = 15` -/
  | stackOverflow
  /-- 3: RET with `SP = 0` -/
  | stackUnderflow
  /-- 4: an address above 4095; raised by fetch, BCD, PUSH, POP, DRAW -/
  | memoryOutOfRange
  deriving DecidableEq, Repr

/-- What a cycle reports to the host (R170 (5)). -/
inductive Report where
  | running
  | needsInput
  | halted
  deriving DecidableEq, Repr

/-- A host operation between two cycles that changes the machine (R190): reset (R210), ROM load (R192), timer tick (R186), clear
dirty (R193). -/
inductive HostOp where
  | reset
  | loadRom (rom : List Byte)
  | tick
  | clearDirty
  deriving DecidableEq, Repr

/-- What the host presents to one cycle (R170): at most one key event (R191), and the byte a RAND takes; no byte here leaves the
draw a free value (R132; log entry 3). -/
structure CycleInput where
  keyEvent : Option Byte
  draw : Option Byte
  deriving DecidableEq, Repr

/-- One turn of the host: operations, in order, and then one cycle with its input, or no cycle (R190, R195). A turn without a cycle
is a gap cut short: the host reads, goes on later, or stops. -/
structure Drive where
  before : List HostOp
  input : Option CycleInput
  deriving DecidableEq, Repr

/-- The state. First the Machine State of 10_state.md, then the model's own fields (log entries 1 to 3, 12). -/
structure State where
  /-- `V[0]` to `V[15]` (R20) -/
  v : Vector Byte 16
  /-- `I` (R25) -/
  i : Word
  /-- `PC` (R22) -/
  pc : Word
  /-- `STACK[0]` to `STACK[15]` (R26) -/
  stack : Vector Word 16
  /-- `SP` (R27) -/
  sp : BitVec 4
  /-- `DT` (R28) -/
  dt : Byte
  /-- `ST` (R28) -/
  st : Byte
  /-- `KEY` (R29) -/
  key : Byte
  /-- `FB` (R30): cell index and value, sorted, the cells that hold 0 unlisted (log entry 7) -/
  fb : List Host.Cell
  /-- `DIRTY` (R31) -/
  dirty : Bool
  /-- `STATUS` (R32) -/
  status : Status
  /-- `FAULT_CODE` (R32) -/
  faultCode : FaultCode
  /-- `FAULT_INFO` (R32) -/
  faultInfo : Word
  /-- `MEM` (R33, R50): address and byte, sorted, the bytes that hold their reset value unlisted (log entry 8) -/
  mem : List Host.Cell
  /-- MODEL: the report of the last cycle driven since reset, none before the first (log entry 2) -/
  report : Option Report
  /-- MODEL: the input of the cycle last driven (log entry 2) -/
  input : CycleInput
  /-- MODEL: a ROM was loaded after the first cycle since reset; only a reset clears it (R192, U18; log entry 12) -/
  lateRom : Bool
  /-- MODEL: the host's turns to come; when empty it drives cycles with no operation and no input (log entry 1) -/
  host : List Drive
  /-- MODEL: the number of RAND instructions run, the argument of the next free byte (log entry 3) -/
  draws : Nat
  deriving DecidableEq, Repr

/-- Why the model stops with a fault: never. The spec's own MachineFault is a next state with `STATUS = Halted` (R176), and every
state and input has a successor under the rules (93_implementation_defined.md, end of part 1). Nobody raises one; an empty type
is safe and unsafe of nothing (log entry 4). -/
inductive Fault where
  deriving DecidableEq, Repr

/-- Why the model refuses to go on. -/
inductive Refusal where
  /-- raised by an arm of exec whose instruction has no meaning yet; safe -/
  | notModelled (mnemonic : String)
  /-- raised by the host's ROM load of an image over `4096 - PROGRAM_ORIGIN` bytes, which cannot be loaded (R192, U18); safe -/
  | romTooLong (length : Nat)
  /-- raised when the host drives a cycle of a Running executor after a ROM load that came after the first cycle since reset, with no
  reset between: a write of MEM during a run, a host move outside R190 (R192, R195, U18); safe -/
  | romLoadAfterFirstCycle
  deriving DecidableEq, Repr

/-- Right after reset (R37, R210). Memory and frame buffer list nothing: every byte holds its reset contents. The model's own
fields are DESIGN CHOICES of log entries 1 to 3 and 12: no cycle driven yet, no input, no late ROM, an empty host schedule. -/
def State.reset : State where
  v := Vector.replicate 16 0
  i := 0
  pc := Config.resetPc
  stack := Vector.replicate 16 0
  sp := 0
  dt := 0
  st := 0
  key := Config.keyReset
  fb := []
  dirty := false
  status := .running
  faultCode := .none
  faultInfo := 0
  mem := []
  report := none
  input := ⟨none, none⟩
  lateRom := false
  host := []
  draws := 0

end Sys2Proof.Machine
end

