-- ==== Sys2Proof/Machine/Ops.lean ====
section
/-! DEFINITION. The named operations over registers, memory, call stack and frame buffer (rules R7, R52 to R54, R144), raising a
MachineFault (R176), ending a cycle (R170), and fetch (R54). -/

namespace Sys2Proof.Machine

/-! Registers (R7, R20, R25 to R28). -/

/-- `V[r]`. -/
def State.reg (s : State) (r : Nibble) : Byte := s.v[r.toNat]'r.isLt

/-- `V[r] <- b`. -/
def State.setReg (s : State) (r : Nibble) (b : Byte) : State := { s with v := s.v.set r.toNat b r.isLt }

/-- `I <- w`. -/
def State.setI (s : State) (w : Word) : State := { s with i := w }

/-- `PC <- w`. -/
def State.setPc (s : State) (w : Word) : State := { s with pc := w }

/-- `DT <- b`. -/
def State.setDt (s : State) (b : Byte) : State := { s with dt := b }

/-- `ST <- b`. -/
def State.setSt (s : State) (b : Byte) : State := { s with st := b }

/-- `KEY <- b`. -/
def State.setKey (s : State) (b : Byte) : State := { s with key := b }

/-- `SP <- j`. -/
def State.setSp (s : State) (j : BitVec 4) : State := { s with sp := j }

/-- `STACK[j]`. -/
def State.slot (s : State) (j : BitVec 4) : Word := s.stack[j.toNat]'j.isLt

/-- `STACK[j] <- w`. -/
def State.setSlot (s : State) (j : BitVec 4) (w : Word) : State := { s with stack := s.stack.set j.toNat w j.isLt }

/-- `FB` as a whole. -/
def State.setFb (s : State) (fb : List Host.Cell) : State := { s with fb := fb }

/-- `DIRTY <- b`. -/
def State.setDirty (s : State) (b : Bool) : State := { s with dirty := b }

/-- `MEM` as a whole. -/
def State.setMem (s : State) (m : List Host.Cell) : State := { s with mem := m }

/-- Note whether a ROM was loaded after the first cycle (log entry 12). -/
def State.setLateRom (s : State) (b : Bool) : State := { s with lateRom := b }

/-- The report of this cycle (R170 (5)). -/
def State.setReport (s : State) (r : Report) : State := { s with report := some r }

/-- One more random byte has been taken (log entry 3). -/
def State.countDraw (s : State) : State := { s with draws := s.draws + 1 }

/-- `PC <- PC + k`, a 16-bit addition without masking (R22, R107, R131; log entry 9). -/
def State.advance (s : State) (k : Word) : State := s.setPc (s.pc + k)

/-- `PC <- PC + 2`, the advance of every instruction that transfers no control (R22). -/
def State.nextInsn (s : State) : State := s.advance 2

/-- A conditional skip: `PC <- PC + 4` when the condition holds, else `PC <- PC + 2` (R107). -/
def State.skipIf (s : State) (cond : Bool) : State := if cond then s.advance 4 else s.advance 2

/-! Memory (R50 to R53). -/

/-- What a byte of memory that no entry lists holds: its reset contents, the font at `FONT_BASE` and 0 elsewhere (R33, R37). -/
def unlistedByte (a : Nat) : Byte :=
  if fontBase ≤ a then fontBytes.getD (a - fontBase) 0 else 0

/-- `MEM[a]` (R52, without the range check). -/
def readByte (m : List Host.Cell) (a : Nat) : Byte := cellsRead unlistedByte m a

/-- `MEM[a] <- b` (R53, without the range check). -/
def writeByte (m : List Host.Cell) (a : Nat) (b : Byte) : List Host.Cell := cellsWrite unlistedByte m a b

/-- Memory is in its canonical form. -/
abbrev Memory.wf (m : List Host.Cell) : Prop := cellsWf unlistedByte Config.memSize m

/-- `MEM[a]` of a state. -/
def State.byteAt (s : State) (a : Nat) : Byte := readByte s.mem a

/-- The bytes at `base`, `base + 1`, and so on. -/
def readBytes (m : List Host.Cell) (base : Nat) : Nat → List Byte
  | 0 => []
  | n + 1 => readByte m base :: readBytes m (base + 1) n

/-- Store bytes at `base`, `base + 1`, and so on, in that order. -/
def writeBytes (m : List Host.Cell) (base : Nat) : List Byte → List Host.Cell
  | [] => m
  | b :: bs => writeBytes (writeByte m base b) (base + 1) bs

/-! Faults (R174 to R176). -/

/-- A fault to raise: the values of `FAULT_CODE` and `FAULT_INFO` (R175). -/
structure MachineFault where
  code : FaultCode
  info : Word
  deriving DecidableEq, Repr

/-- The number the host reads as `FAULT_CODE` (R175). -/
def FaultCode.number : FaultCode → Nat
  | .none => 0
  | .unrecognizedOpcode => 1
  | .stackOverflow => 2
  | .stackUnderflow => 3
  | .memoryOutOfRange => 4

/-- `MachineFault(MemoryOutOfRange, a)`, the address as a 16-bit value (R175). -/
def outOfRange (a : Nat) : MachineFault := ⟨.memoryOutOfRange, BitVec.ofNat 16 a⟩

/-- TAKING A FAULT, the machine's whole trap entry (R176): `STATUS`, `FAULT_CODE` and `FAULT_INFO` are written and nothing else of
the Machine State; `PC` stays; the cycle reports Halted. There is no return: only reset leaves Halted (R179). -/
def State.raise (s : State) (f : MachineFault) : State :=
  { s with status := .halted, faultCode := f.code, faultInfo := f.info, report := some .halted }

/-- The end of an instruction begun in `s`: it completes with all its writes, or it raises its fault in `s`, all its writes
discarded (R9, R170, R176). -/
def State.finish (s : State) (r : Except MachineFault State) : Host.Outcome State Fault Refusal :=
  match r with
  | .ok t => .next (t.setReport .running)
  | .error f => .next (s.raise f)

/-- The end of an instruction that cannot fault. -/
def State.complete (s : State) : Host.Outcome State Fault Refusal := .next (s.setReport .running)

/-! Checked accesses. -/

/-- `MemRead(a, 1)` (R52). -/
def State.memRead (s : State) (a : Nat) : Except MachineFault Byte :=
  if a < Config.memSize then .ok (s.byteAt a) else .error (outOfRange a)

/-- The range check of rule R144 for the `m` bytes from `base` on: the fault to raise, with the lowest address that is not valid.
The sum is a plain natural number (R51). No byte, no check (DRAW with `n = 0`, R151). -/
def rangeFault (base m : Nat) : Option MachineFault :=
  if m = 0 ∨ base + m ≤ Config.memSize then none
  else some (outOfRange (if base < Config.memSize then Config.memSize else base))

/-- Read `m` consecutive bytes, the whole range checked first (R144). -/
def State.loadBlock (s : State) (base m : Nat) : Except MachineFault (List Byte) :=
  match rangeFault base m with
  | some f => .error f
  | none => .ok (readBytes s.mem base m)

/-- Store consecutive bytes, the whole range checked first (R53, R144). -/
def State.storeBlock (s : State) (base : Nat) (bytes : List Byte) : Except MachineFault State :=
  match rangeFault base bytes.length with
  | some f => .error f
  | none => .ok (s.setMem (writeBytes s.mem base bytes))

/-- FETCH, `MemRead(PC, 2)` (R54): the byte at `PC` is the high byte, the one at `PC + 1` the low byte; the first of the two
addresses that is not valid faults. Any parity of `PC` (R56). -/
def State.fetch (s : State) : Except MachineFault Word :=
  match s.memRead s.pc.toNat with
  | .error f => .error f
  | .ok hi =>
    match s.memRead (s.pc.toNat + 1) with
    | .error f => .error f
    | .ok lo => .ok (wordOfBytes hi lo)

/-- The fault of a word that is no instruction (R77, R175). -/
def unrecognized (op : Word) : MachineFault := ⟨.unrecognizedOpcode, op⟩

/-! The frame buffer (R30, R152). -/

/-- The flat index of cell (col, row) (R30, R152 d). -/
def cellIndex (col row : Nat) : Nat := row * Config.fbWidth + col

/-- `FB[col, row]`; a cell that is not listed holds 0. -/
def pixel (fb : List Host.Cell) (col row : Nat) : Byte := cellsRead (fun _ => 0) fb (cellIndex col row)

/-- `FB[col, row] <- b`. -/
def setPixel (fb : List Host.Cell) (col row : Nat) (b : Byte) : List Host.Cell :=
  cellsWrite (fun _ => 0) fb (cellIndex col row) b

/-- The frame buffer is in its canonical form and every listed cell holds 1, so that every cell holds 0 or 1 (R30). -/
abbrev FrameBuffer.wf (fb : List Host.Cell) : Prop :=
  cellsWf (fun _ => 0) (Config.fbWidth * Config.fbHeight) fb ∧ ∀ c ∈ fb, c.2 = 1

/-- `FB[col, row]` of a state. -/
def State.pixelAt (s : State) (col row : Nat) : Byte := pixel s.fb col row

end Sys2Proof.Machine
end

