-- ==== Sys2Proof/Machine/Operands.lean ====
section
/-! DEFINITION. Operand forms (rules R71, R76, R132, R142, R143, R145, R146): immediates, effective addresses, the random byte, the
glyph address, the decimal digits, blocks of registers. -/

namespace Sys2Proof.Machine

/-- `zext_16(nnn)` (R76). -/
def zextAddr (nnn : Addr12) : Word := nnn.setWidth 16

/-- `zext_16(V[r])` (R108). -/
def zextByte (b : Byte) : Word := b.setWidth 16

/-- `SP` as `FAULT_INFO` (R175). -/
def zextSp (sp : BitVec 4) : Word := sp.setWidth 16

/-- The base address `I` of a data access, a plain natural number (R51). -/
def State.base (s : State) : Nat := s.i.toNat

/-- `draw_byte()` (R132, R170): the byte the host supplies to this cycle, or a free one. -/
def State.drawByte (s : State) : Byte := s.input.draw.getD (Config.drawByte s.draws)

/-- The address of the glyph of the low nibble of a byte (R142). -/
def glyphAddress (b : Byte) : Word := BitVec.ofNat 16 (fontBase + glyphBytes * (b.toNat % 16))

/-- Hundreds, tens and ones (R143). -/
def bcdDigits (b : Byte) : List Byte :=
  [BitVec.ofNat 8 (b.toNat / 100), BitVec.ofNat 8 (b.toNat / 10 % 10), BitVec.ofNat 8 (b.toNat % 10)]

/-- `V[k]`, `V[k + 1]`, and so on, `n` registers (R145). -/
def State.regsFrom (s : State) (k : Nat) : Nat → List Byte
  | 0 => []
  | n + 1 => s.reg (BitVec.ofNat 4 k) :: s.regsFrom (k + 1) n

/-- `V[k] <- ..`, `V[k + 1] <- ..`, and so on, one register for each byte (R146). -/
def State.setRegsFrom (s : State) (k : Nat) : List Byte → State
  | [] => s
  | b :: bs => (s.setReg (BitVec.ofNat 4 k) b).setRegsFrom (k + 1) bs

end Sys2Proof.Machine
end

