-- ==== Sys2Proof/Machine/Flags.lean ====
section
/-! DEFINITION. The flag `V[15]` (rule R21): every value an instruction can give it. -/

namespace Sys2Proof.Machine

/-- The register that serves as the one flag (R21). -/
def flagReg : Nibble := 15

/-- A flag as a byte: 1 or 0. -/
def flagByte (b : Bool) : Byte := if b then 1 else 0

/-- `V[15] <- 1` or `V[15] <- 0`. -/
def State.setFlag (s : State) (b : Bool) : State := s.setReg flagReg (flagByte b)

/-- ADDR: the true sum exceeds 255 (R126). -/
def carryOut (a b : Byte) : Bool := decide (a.toNat + b.toNat > 255)

/-- SUB and SUBB: no borrow, the minuend is not below the subtrahend (R127, R129). -/
def noBorrow (minuend subtrahend : Byte) : Bool := decide (minuend.toNat ≥ subtrahend.toNat)

/-- SHR: old bit 0 (R128). -/
def bitZero (b : Byte) : Bool := b.getLsbD 0

/-- SHL: old bit 7 (R130). -/
def bitSeven (b : Byte) : Bool := b.getLsbD 7

/-- ADDI: the sum passes 0xFFF (R141, the spec's decision D7). -/
def indexWraps (i : Word) (b : Byte) : Bool := decide (i.toNat + b.toNat > 0xFFF)

end Sys2Proof.Machine
end

