-- ==== Sys2Proof/Machine/Alu.lean ====
section
/-! DEFINITION. Register load, arithmetic, logic, shift and random instructions (41_alu.md). The statements of a rule run in the
order written, each seeing the writes of those before it (R8): with `x = 15` that order decides what `V[15]` keeps. -/

namespace Sys2Proof.Machine

/-- LOAD x,nn (R120). -/
def execLoad (x : Nibble) (nn : Byte) (s : State) : Host.Outcome State Fault Refusal :=
  (s.setReg x nn).nextInsn.complete

/-- ADD x,nn (R121): wraps, writes no flag. -/
def execAdd (x : Nibble) (nn : Byte) (s : State) : Host.Outcome State Fault Refusal :=
  (s.setReg x (s.reg x + nn)).nextInsn.complete

/-- MOVE x,y (R122). -/
def execMove (x y : Nibble) (s : State) : Host.Outcome State Fault Refusal :=
  (s.setReg x (s.reg y)).nextInsn.complete

/-- OR x,y (R123). -/
def execOr (x y : Nibble) (s : State) : Host.Outcome State Fault Refusal :=
  (s.setReg x (s.reg x ||| s.reg y)).nextInsn.complete

/-- AND x,y (R124). -/
def execAnd (x y : Nibble) (s : State) : Host.Outcome State Fault Refusal :=
  (s.setReg x (s.reg x &&& s.reg y)).nextInsn.complete

/-- XOR x,y (R125). -/
def execXor (x y : Nibble) (s : State) : Host.Outcome State Fault Refusal :=
  (s.setReg x (s.reg x ^^^ s.reg y)).nextInsn.complete

/-- ADDR x,y (R126): the sum, then the carry. -/
def execAddr (x y : Nibble) (s : State) : Host.Outcome State Fault Refusal :=
  ((s.setReg x (s.reg x + s.reg y)).setFlag (carryOut (s.reg x) (s.reg y))).nextInsn.complete

/-- SUB x,y (R127): the difference, then 1 for no borrow. -/
def execSub (x y : Nibble) (s : State) : Host.Outcome State Fault Refusal :=
  ((s.setReg x (s.reg x - s.reg y)).setFlag (noBorrow (s.reg x) (s.reg y))).nextInsn.complete

/-- SHR x (R128): the flag, then the shift of the register as it then is. -/
def execShr (x : Nibble) (s : State) : Host.Outcome State Fault Refusal :=
  let t := s.setFlag (bitZero (s.reg x))
  (t.setReg x (t.reg x >>> 1)).nextInsn.complete

/-- SUBB x,y (R129): the reverse difference, then 1 for no borrow. -/
def execSubb (x y : Nibble) (s : State) : Host.Outcome State Fault Refusal :=
  ((s.setReg x (s.reg y - s.reg x)).setFlag (noBorrow (s.reg y) (s.reg x))).nextInsn.complete

/-- SHL x (R130): the flag, then the shift of the register as it then is. -/
def execShl (x : Nibble) (s : State) : Host.Outcome State Fault Refusal :=
  let t := s.setFlag (bitSeven (s.reg x))
  (t.setReg x (t.reg x <<< 1)).nextInsn.complete

/-- RAND x,nn (R132): a random byte, masked. -/
def execRand (x : Nibble) (nn : Byte) (s : State) : Host.Outcome State Fault Refusal :=
  (s.setReg x (s.drawByte &&& nn)).countDraw.nextInsn.complete

end Sys2Proof.Machine
end

