-- ==== Sys2Proof/Machine/Control.lean ====
section
/-! DEFINITION. Control transfer (40_control_transfer.md): RET, JUMP, CALL, SKE, SKNE, SKRE, JNEQ, JUMPI. -/

namespace Sys2Proof.Machine

/-- RET (R100): the popped value goes to `PC` as it is, nothing is added (R216). -/
def execRet (s : State) : Host.Outcome State Fault Refusal :=
  s.finish
    (if s.sp = 0 then .error ⟨.stackUnderflow, zextSp s.sp⟩
    else .ok ((s.setPc (s.slot s.sp)).setSp (s.sp - 1)))

/-- JUMP nnn (R101). -/
def execJump (nnn : Addr12) (s : State) : Host.Outcome State Fault Refusal :=
  (s.setPc (zextAddr nnn)).complete

/-- CALL nnn (R102): increment `SP`, then store the address of this CALL at the new `SP` (the spec's decision D5). -/
def execCall (nnn : Addr12) (s : State) : Host.Outcome State Fault Refusal :=
  s.finish
    (if s.sp = 15 then .error ⟨.stackOverflow, zextSp s.sp⟩
    else .ok (((s.setSp (s.sp + 1)).setSlot (s.sp + 1) s.pc).setPc (zextAddr nnn)))

/-- SKE x,nn (R103). -/
def execSke (x : Nibble) (nn : Byte) (s : State) : Host.Outcome State Fault Refusal :=
  (s.skipIf (s.reg x == nn)).complete

/-- SKNE x,nn (R104). -/
def execSkne (x : Nibble) (nn : Byte) (s : State) : Host.Outcome State Fault Refusal :=
  (s.skipIf (s.reg x != nn)).complete

/-- SKRE x,y (R105). -/
def execSkre (x y : Nibble) (s : State) : Host.Outcome State Fault Refusal :=
  (s.skipIf (s.reg x == s.reg y)).complete

/-- JNEQ x,y (R106). -/
def execJneq (x y : Nibble) (s : State) : Host.Outcome State Fault Refusal :=
  (s.skipIf (s.reg x != s.reg y)).complete

/-- JUMPI nnn (R108): a 16-bit sum, not reduced modulo 4096 (the spec's decision D16). -/
def execJumpi (nnn : Addr12) (s : State) : Host.Outcome State Fault Refusal :=
  (s.setPc (zextAddr nnn + zextByte (s.reg 0))).complete

end Sys2Proof.Machine
end

