-- ==== Sys2Proof/Machine/Display.lean ====
section
/-! DEFINITION. Display instructions (43_display.md): CLS and DRAW, with the geometry of rule R152. -/

namespace Sys2Proof.Machine

/-- The frame buffer and `hit` while a sprite is being drawn (R151). -/
structure Blit where
  fb : List Host.Cell
  hit : Bool
  deriving DecidableEq, Repr

/-- One pixel of a sprite at (col, row): a 0 bit, a column above 63 or a row above 31 does nothing; otherwise the cell is flipped,
and it was hit if it held 1 (R151, R152 c, e). -/
def drawPixel (col row : Nat) (bit : Bool) (p : Blit) : Blit :=
  if bit = true ∧ col < Config.fbWidth ∧ row < Config.fbHeight then
    ⟨setPixel p.fb col row (pixel p.fb col row ^^^ 1), p.hit || pixel p.fb col row == 1⟩
  else p

/-- The pixels `c` to 7 of one sprite byte at row `row`: bit 7 is the leftmost (R151, R152 b). The first argument counts the
pixels left. -/
def drawRow (px row : Nat) (b : Byte) : Nat → Blit → Blit
  | 0, p => p
  | left + 1, p => drawRow px row b left (drawPixel (px + (7 - left)) row (b.getLsbD left) p)

/-- The sprite's rows downward from row `py` (R151). -/
def drawRows (px py : Nat) : List Byte → Blit → Blit
  | [], p => p
  | b :: bs, p => drawRows px (py + 1) bs (drawRow px py b 8 p)

/-- CLS (R150). -/
def execCls (s : State) : Host.Outcome State Fault Refusal :=
  ((s.setFb []).setDirty true).nextInsn.complete

/-- DRAW x,y,n (R151): the coordinates are read before the flag is written; `V[15]` and `DIRTY` are written even when nothing is
drawn. -/
def execDraw (x y n : Nibble) (s : State) : Host.Outcome State Fault Refusal :=
  s.finish
    (match s.loadBlock s.base n.toNat with
    | .ok rows =>
      let p := drawRows (s.reg x).toNat (s.reg y).toNat rows ⟨s.fb, false⟩
      .ok (((s.setFb p.fb).setFlag p.hit).setDirty true).nextInsn
    | .error f => .error f)

end Sys2Proof.Machine
end

