-- ==== Sys2Proof/Machine/IndexMemory.lean ====
section
/-! DEFINITION. Index register and memory instructions (42_index_memory.md). `I` is unchanged by BCD, PUSH and POP. -/

namespace Sys2Proof.Machine

/-- LOADI nnn (R140). -/
def execLoadi (nnn : Addr12) (s : State) : Host.Outcome State Fault Refusal :=
  (s.setI (zextAddr nnn)).nextInsn.complete

/-- ADDI x (R141): `V[15]` is written on wraparound only. -/
def execAddi (x : Nibble) (s : State) : Host.Outcome State Fault Refusal :=
  let t := s.setI (BitVec.ofNat 16 ((s.i.toNat + (s.reg x).toNat) % 4096))
  (if indexWraps s.i (s.reg x) then t.setFlag true else t).nextInsn.complete

/-- LDSPR x (R142). -/
def execLdspr (x : Nibble) (s : State) : Host.Outcome State Fault Refusal :=
  (s.setI (glyphAddress (s.reg x))).nextInsn.complete

/-- BCD x (R143). -/
def execBcd (x : Nibble) (s : State) : Host.Outcome State Fault Refusal :=
  s.finish
    (match s.storeBlock s.base (bcdDigits (s.reg x)) with
    | .ok t => .ok t.nextInsn
    | .error f => .error f)

/-- PUSH x (R145): `V[0]` to `V[x]`, x + 1 bytes. -/
def execPush (x : Nibble) (s : State) : Host.Outcome State Fault Refusal :=
  s.finish
    (match s.storeBlock s.base (s.regsFrom 0 (x.toNat + 1)) with
    | .ok t => .ok t.nextInsn
    | .error f => .error f)

/-- POP x (R146): `V[0]` to `V[x]`, x + 1 bytes. -/
def execPop (x : Nibble) (s : State) : Host.Outcome State Fault Refusal :=
  s.finish
    (match s.loadBlock s.base (x.toNat + 1) with
    | .ok bytes => .ok (s.setRegsFrom 0 bytes).nextInsn
    | .error f => .error f)

end Sys2Proof.Machine
end

