-- ==== Sys2Proof/Machine/KeyTimer.lean ====
section
/-! DEFINITION. Key and timer instructions (44_key_timer.md). No instruction ticks a timer (R166). -/

namespace Sys2Proof.Machine

/-- SKPR x (R160): all eight bits are compared. -/
def execSkpr (x : Nibble) (s : State) : Host.Outcome State Fault Refusal :=
  (s.skipIf (s.key == s.reg x)).complete

/-- SKUP x (R161). -/
def execSkup (x : Nibble) (s : State) : Host.Outcome State Fault Refusal :=
  (s.skipIf (s.key != s.reg x)).complete

/-- MOVED x (R162). -/
def execMoved (x : Nibble) (s : State) : Host.Outcome State Fault Refusal :=
  (s.setReg x s.dt).nextInsn.complete

/-- KEYD x (R163): without a key event the cycle changes nothing and reports NeedsInput; `KEY` is not looked at. -/
def execKeyd (x : Nibble) (s : State) : Host.Outcome State Fault Refusal :=
  match s.input.keyEvent with
  | none => .next (s.setReport .needsInput)
  | some k => (s.setReg x k).nextInsn.complete

/-- LOADD x (R164). -/
def execLoadd (x : Nibble) (s : State) : Host.Outcome State Fault Refusal :=
  (s.setDt (s.reg x)).nextInsn.complete

/-- LOADS x (R165). -/
def execLoads (x : Nibble) (s : State) : Host.Outcome State Fault Refusal :=
  (s.setSt (s.reg x)).nextInsn.complete

end Sys2Proof.Machine
end

