-- ==== Sys2Proof/Machine/Dispatch.lean ====
section
/-! DEFINITION. The execute step of a cycle (rule R170 (4)): one arm for each instruction. -/

namespace Sys2Proof.Machine

/-- Execute an instruction. Whether the executor is Halted is the cycle's question, not the instruction's (R170 (1)). -/
def exec (i : Instr) (s : State) : Host.Outcome State Fault Refusal :=
  match i with
  | .cls => Sys2Proof.Machine.execCls s
  | .ret => Sys2Proof.Machine.execRet s
  | .jump nnn => Sys2Proof.Machine.execJump nnn s
  | .call nnn => Sys2Proof.Machine.execCall nnn s
  | .ske x nn => Sys2Proof.Machine.execSke x nn s
  | .skne x nn => Sys2Proof.Machine.execSkne x nn s
  | .skre x y => Sys2Proof.Machine.execSkre x y s
  | .load x nn => Sys2Proof.Machine.execLoad x nn s
  | .add x nn => Sys2Proof.Machine.execAdd x nn s
  | .move x y => Sys2Proof.Machine.execMove x y s
  | .or x y => Sys2Proof.Machine.execOr x y s
  | .and x y => Sys2Proof.Machine.execAnd x y s
  | .xor x y => Sys2Proof.Machine.execXor x y s
  | .addr x y => Sys2Proof.Machine.execAddr x y s
  | .sub x y => Sys2Proof.Machine.execSub x y s
  | .shr x => Sys2Proof.Machine.execShr x s
  | .subb x y => Sys2Proof.Machine.execSubb x y s
  | .shl x => Sys2Proof.Machine.execShl x s
  | .jneq x y => Sys2Proof.Machine.execJneq x y s
  | .loadi nnn => Sys2Proof.Machine.execLoadi nnn s
  | .jumpi nnn => Sys2Proof.Machine.execJumpi nnn s
  | .rand x nn => Sys2Proof.Machine.execRand x nn s
  | .draw x y n => Sys2Proof.Machine.execDraw x y n s
  | .skpr x => Sys2Proof.Machine.execSkpr x s
  | .skup x => Sys2Proof.Machine.execSkup x s
  | .moved x => Sys2Proof.Machine.execMoved x s
  | .keyd x => Sys2Proof.Machine.execKeyd x s
  | .loadd x => Sys2Proof.Machine.execLoadd x s
  | .loads x => Sys2Proof.Machine.execLoads x s
  | .addi x => Sys2Proof.Machine.execAddi x s
  | .ldspr x => Sys2Proof.Machine.execLdspr x s
  | .bcd x => Sys2Proof.Machine.execBcd x s
  | .push x => Sys2Proof.Machine.execPush x s
  | .pop x => Sys2Proof.Machine.execPop x s

end Sys2Proof.Machine
end

