-- ==== Sys2Proof/Machine/Cycle.lean ====
section
/-! DEFINITION. One cycle: fetch, decode, execute (rules R170 to R172, R178). -/

namespace Sys2Proof.Machine

/-- One cycle (R170): a halted executor changes nothing (R171); otherwise fetch, decode, execute, in this order, and the first
check that fails is the fault raised (R178). -/
def cycle (s : State) : Host.Outcome State Fault Refusal :=
  match s.status with
  | .halted => .next (s.setReport .halted)
  | .running =>
    match s.fetch with
    | .error f => .next (s.raise f)
    | .ok op =>
      match decode op with
      | .error _ => .next (s.raise (unrecognized op))
      | .ok i => exec i s

end Sys2Proof.Machine
end

