-- ==== Sys2Proof/Machine/HostOps.lean ====
section
/-! DEFINITION. The host's operations between cycles and the input it presents to a cycle (60_exceptions.md rules R186, R190 to
R193, R195; 70_reset_and_hazards.md rules R210, R212). Reading (display, status) and stopping change nothing and need no
operation. -/

namespace Sys2Proof.Machine

/-- A timer one tick later: 0 stays 0 (R186, the spec's decision D21). -/
def ticked (b : Byte) : Byte := if b = 0 then 0 else b - 1

/-- Tick (R186): both timers in one. -/
def State.tick (s : State) : State := (s.setDt (ticked s.dt)).setSt (ticked s.st)

/-- Clear dirty (R193). -/
def State.clearDirty (s : State) : State := s.setDirty false

/-- Reset (R210): all of the Machine State takes its reset value. What is not Machine State stays: the host's schedule, the cycle's
input, and the count of random bytes taken, so that a byte drawn after a reset is still a fresh one (log entry 13). -/
def State.resetMachine (s : State) : State :=
  { State.reset with host := s.host, input := s.input, draws := s.draws }

/-- The longest ROM image that can be loaded, 3584 bytes (R58, R192). -/
def maxRom : Nat := Config.memSize - Config.programOrigin

/-- Load ROM (R192): byte k of the image to `PROGRAM_ORIGIN + k`. A load after the first cycle since reset is noted: it is useless, a
reset has to follow before the machine runs again (R212, U18; log entry 12). -/
def State.loadRom (s : State) (rom : List Byte) : Except Refusal State :=
  if maxRom < rom.length then .error (.romTooLong rom.length)
  else .ok ((s.setMem (writeBytes s.mem Config.programOrigin rom)).setLateRom (s.lateRom || s.report.isSome))

/-- One host operation (R190). -/
def State.hostOp (s : State) : HostOp → Except Refusal State
  | .reset => .ok s.resetMachine
  | .loadRom rom => s.loadRom rom
  | .tick => .ok s.tick
  | .clearDirty => .ok s.clearDirty

/-- The host's operations between two cycles, in order (R190). -/
def State.hostOps (s : State) : List HostOp → Except Refusal State
  | [] => .ok s
  | op :: ops =>
    match s.hostOp op with
    | .error r => .error r
    | .ok t => t.hostOps ops

/-- Present an input to the cycle to come: a key event goes to `KEY` first (R191). -/
def State.present (s : State) (input : CycleInput) : State :=
  { s.setKey (input.keyEvent.getD s.key) with input := input }

/-- The host's next turn (R190): the head of its schedule, or a plain cycle when the schedule is empty (log entry 1). -/
def State.nextDrive (s : State) : Drive := s.host.headD ⟨[], some ⟨none, none⟩⟩

/-- The gap before the next cycle (R190): take the next turn off the schedule and perform its operations. -/
def State.hostGap (s : State) : Except Refusal State := ({ s with host := s.host.tail }).hostOps s.nextDrive.before

/-- Must a cycle not be driven? A host that loads a ROM after the first cycle has to reset before the executor runs on (R195, U18).
A halted executor executes nothing (R171), so a cycle of it is still no use of the image. -/
def State.runsLateRom (s : State) : Bool := s.lateRom && s.status == .running

/-- All the host does in its turn short of the cycle itself: the gap's operations, then, when it drives a cycle, the input. -/
def State.hostPhase (s : State) : Except Refusal State :=
  match s.hostGap with
  | .error r => .error r
  | .ok t =>
    match s.nextDrive.input with
    | none => .ok t
    | some c => if t.runsLateRom = true then .error .romLoadAfterFirstCycle else .ok (t.present c)

end Sys2Proof.Machine
end

