-- ==== Sys2Proof/Machine/Step.lean ====
section
/-! DEFINITION. One step: a turn of the host, with the cycle it drives, if it drives one (rules R170, R190). -/

namespace Sys2Proof.Machine

/-- One step of the machine: the host's operations, then the cycle it drives; a turn that drives none ends there. -/
def step (s : State) : Host.Outcome State Fault Refusal :=
  match s.hostPhase with
  | .error r => .refused r
  | .ok t =>
    match s.nextDrive.input with
    | none => .next t
    | some _ => cycle t

/-- The state in which the very next step runs the instruction with bits `w`: its word stands at `PC`, high byte first, the
executor is Running and the host has planned nothing. It stands for the host's ROM load (log entry 14). -/
def State.withFetchWord (s : State) (nbits w : Nat) : State :=
  let op : Word := BitVec.ofNat 16 (w % 2 ^ nbits)
  { s.setMem (writeBytes s.mem s.pc.toNat (bytesOfWord op)) with status := .running, lateRom := false, host := [] }

end Sys2Proof.Machine
end

