-- ==== Sys2Proof/Machine/Assembly.lean ====
section
/-! DEFINITION. The contract of the assembler and the disassembler as far as 30_encoding.md fixes it: source lines and tokens (rules
R81, R82), operand conversion (R83), emission of an image (R86), normalisation of a word (R87), rendering and listing (R88). The engine
never sees text; the conventions the spec leaves open here are log entries 31 and 32. Text is a list of characters. -/

namespace Sys2Proof.Machine

/-! Source lines (R81, R82). -/

/-- White space inside a line (R82). -/
def isBlank (c : Char) : Bool := c == ' ' || c == '\t' || c == '\r'

/-- The line up to its comment or its end (R82). -/
def stripComment : List Char → List Char
  | [] => []
  | c :: cs => if c == ';' || c == '\n' then [] else c :: stripComment cs

/-- Without leading and trailing white space. -/
def trim (cs : List Char) : List Char := ((cs.dropWhile isBlank).reverse.dropWhile isBlank).reverse

/-- Split at commas (R82). -/
def splitCommas : List Char → List (List Char)
  | [] => [[]]
  | c :: cs =>
    if c == ',' then [] :: splitCommas cs
    else
      match splitCommas cs with
      | [] => [[c]]
      | t :: ts => (c :: t) :: ts

/-- Why a line does not assemble (R82, R85, R92; log entry 31). -/
inductive AsmError where
  /-- not of the form of R81, or an operand that is no hexadecimal number -/
  | malformedLine
  /-- the keyword is none of the 34 -/
  | unknownKeyword
  /-- the number of operands is not the keyword's -/
  | operandCount
  deriving DecidableEq, Repr

/-- The tokens of a line (R82). -/
structure LineTokens where
  keyword : List Char
  operands : List (List Char)
  deriving DecidableEq, Repr

/-- Is it an operand token: some characters, none of them white space? -/
def isToken (cs : List Char) : Bool := !cs.isEmpty && cs.all fun c => !isBlank c

/-- The tokenizer (R82): none for a blank or comment-only line (R81), at most three operands. -/
def tokenize (line : List Char) : Except AsmError (Option LineTokens) :=
  match trim (stripComment line) with
  | [] => .ok none
  | text =>
    let keyword := text.takeWhile fun c => !isBlank c
    let operands :=
      match trim (text.dropWhile fun c => !isBlank c) with
      | [] => []
      | rest => (splitCommas rest).map trim
    if operands.length ≤ 3 && operands.all isToken then .ok (some ⟨keyword, operands⟩) else .error .malformedLine

/-! Operand conversion (R83). -/

/-- The value of a hexadecimal digit. -/
def hexDigit (c : Char) : Option Nat :=
  if '0' ≤ c ∧ c ≤ '9' then some (c.toNat - 48)
  else if 'a' ≤ c ∧ c ≤ 'f' then some (c.toNat - 87)
  else if 'A' ≤ c ∧ c ≤ 'F' then some (c.toNat - 55)
  else none

/-- The number of a sequence of hexadecimal digits, `acc` read already. -/
def hexNumber (acc : Nat) : List Char → Option Nat
  | [] => some acc
  | c :: cs =>
    match hexDigit c with
    | some d => hexNumber (acc * 16 + d) cs
    | none => none

/-- Strip a `#` or `v` prefix (R83). -/
def stripPrefix : List Char → List Char
  | '#' :: cs => cs
  | 'v' :: cs => cs
  | cs => cs

/-- Strip a leading `0x` (R83). -/
def strip0x : List Char → List Char
  | '0' :: 'x' :: cs => cs
  | cs => cs

/-- An operand token as an unsigned integer; all numbers are hexadecimal (R83). -/
def convertOperand (cs : List Char) : Option Nat :=
  match strip0x (stripPrefix cs) with
  | [] => none
  | digits => hexNumber 0 digits

/-! Keywords. -/

/-- The keyword as the source writes it, in upper case (R82). -/
def keywordText : Mnemonic → List Char
  | .cls => ['C', 'L', 'S']
  | .ret => ['R', 'E', 'T']
  | .jump => ['J', 'U', 'M', 'P']
  | .call => ['C', 'A', 'L', 'L']
  | .ske => ['S', 'K', 'E']
  | .skne => ['S', 'K', 'N', 'E']
  | .skre => ['S', 'K', 'R', 'E']
  | .load => ['L', 'O', 'A', 'D']
  | .add => ['A', 'D', 'D']
  | .move => ['M', 'O', 'V', 'E']
  | .or => ['O', 'R']
  | .and => ['A', 'N', 'D']
  | .xor => ['X', 'O', 'R']
  | .addr => ['A', 'D', 'D', 'R']
  | .sub => ['S', 'U', 'B']
  | .shr => ['S', 'H', 'R']
  | .subb => ['S', 'U', 'B', 'B']
  | .shl => ['S', 'H', 'L']
  | .jneq => ['J', 'N', 'E', 'Q']
  | .loadi => ['L', 'O', 'A', 'D', 'I']
  | .jumpi => ['J', 'U', 'M', 'P', 'I']
  | .rand => ['R', 'A', 'N', 'D']
  | .draw => ['D', 'R', 'A', 'W']
  | .skpr => ['S', 'K', 'P', 'R']
  | .skup => ['S', 'K', 'U', 'P']
  | .moved => ['M', 'O', 'V', 'E', 'D']
  | .keyd => ['K', 'E', 'Y', 'D']
  | .loadd => ['L', 'O', 'A', 'D', 'D']
  | .loads => ['L', 'O', 'A', 'D', 'S']
  | .addi => ['A', 'D', 'D', 'I']
  | .ldspr => ['L', 'D', 'S', 'P', 'R']
  | .bcd => ['B', 'C', 'D']
  | .push => ['P', 'U', 'S', 'H']
  | .pop => ['P', 'O', 'P']

/-- All keywords, in the order of the opcode map (R74, R89). -/
def keywords : List Mnemonic := opcodeMap.map OpcodeRow.mnemonic

/-- Look a keyword up. -/
def lookupKeyword (cs : List Char) : Option Mnemonic := keywords.find? fun m => keywordText m == cs

/-! Assembling (R81 to R86). -/

/-- Convert all operands of a line. -/
def convertOperands : List (List Char) → Option (List Nat)
  | [] => some []
  | t :: ts =>
    match convertOperand t, convertOperands ts with
    | some k, some ks => some (k :: ks)
    | _, _ => none

/-- One line: none when it is skipped, else its word (R89: one word for each line). -/
def assembleLine (line : List Char) : Except AsmError (Option Word) :=
  match tokenize line with
  | .error e => .error e
  | .ok none => .ok none
  | .ok (some tokens) =>
    match lookupKeyword tokens.keyword, convertOperands tokens.operands with
    | none, _ => .error .unknownKeyword
    | some _, none => .error .malformedLine
    | some m, some operands =>
      match SourceInstr.pack ⟨m, operands⟩ with
      | none => .error .operandCount
      | some op => .ok (some op)

/-- The image of a source text, line by line, high bytes first, with no header and no padding (R86). -/
def assemble : List (List Char) → Except AsmError (List Byte)
  | [] => .ok []
  | line :: lines =>
    match assembleLine line, assemble lines with
    | .error e, _ => .error e
    | .ok _, .error e => .error e
    | .ok none, .ok image => .ok image
    | .ok (some op), .ok image => .ok (bytesOfWord op ++ image)

/-! Disassembling (R87, R88). -/

/-- The operand class of a word, from its top nibble (R87). -/
def classOfWord (op : Word) : OperandClass :=
  match opTop op with
  | 0x0#4 => .a
  | 0x1#4 | 0x2#4 | 0xA#4 | 0xB#4 => .b
  | 0x3#4 | 0x4#4 | 0x6#4 | 0x7#4 | 0xC#4 => .c
  | 0x5#4 | 0x8#4 | 0x9#4 => .d
  | 0xD#4 => .f
  | _ => .e

/-- The word with the operand fields of its class masked out (R87). -/
def normalise (op : Word) : Word := op &&& (classOfWord op).mask

/-- The operand fields of a word, in the order of the source text, for a keyword (R71, R85). -/
def operandFields (m : Mnemonic) (op : Word) : List Nat :=
  match m.operandClass with
  | .a => []
  | .b => [(opNnn op).toNat]
  | .c => [(opX op).toNat, (opNn op).toNat]
  | .d => if m.ignoresY then [(opX op).toNat] else [(opX op).toNat, (opY op).toNat]
  | .e => [(opX op).toNat]
  | .f => [(opX op).toNat, (opY op).toNat, (opN op).toNat]

/-- Reverse lookup of the normalised word (R87); none for an unknown one, which is reported and not fatal (R92). -/
def disassemble (op : Word) : Option SourceInstr :=
  match keywords.find? fun m => m.template == normalise op with
  | some m => some ⟨m, operandFields m op⟩
  | none => none

/-- A digit of rule R88: lower case. -/
def digitText (k : Nat) : Char := Char.ofNat (if k < 10 then 48 + k else 87 + k)

/-- The lowest `n` hexadecimal digits of a number, the highest first. -/
def hexText (k : Nat) : Nat → List Char
  | 0 => []
  | n + 1 => digitText (k / 16 ^ n % 16) :: hexText k n

/-- `0xNNN` (R88). -/
def addressText (k : Nat) : List Char := '0' :: 'x' :: hexText k 3

/-- `#N` (R88). -/
def registerText (k : Nat) : List Char := '#' :: hexText k 1

/-- `0xNN`: an 8-bit immediate, and the height of DRAW (R88). -/
def byteText (k : Nat) : List Char := '0' :: 'x' :: hexText k 2

/-- Operands separated by a comma and a space (R81, R88). -/
def joinOperands : List (List Char) → List Char
  | [] => []
  | [t] => t
  | t :: ts => t ++ [',', ' '] ++ joinOperands ts

/-- The operands as text, by the operand class (R72, R88). -/
def operandTexts (cls : OperandClass) (operands : List Nat) : List (List Char) :=
  match cls, operands with
  | .b, [nnn] => [addressText nnn]
  | .c, [x, nn] => [registerText x, byteText nn]
  | .f, [x, y, n] => [registerText x, registerText y, byteText n]
  | _, xs => xs.map registerText

/-- `MNEMONIC OPERANDS` (R88). -/
def render (src : SourceInstr) : List Char :=
  match operandTexts src.mnemonic.operandClass src.operands with
  | [] => keywordText src.mnemonic
  | ts => keywordText src.mnemonic ++ ' ' :: joinOperands ts

/-! Listing (R88, R92). -/

/-- `0xOPCODE` (R88): all four digits of the word. -/
def opcodeText (op : Word) : List Char := '0' :: 'x' :: hexText op.toNat 4

/-- One instruction of an image as the disassembler finds it: `source` is none for an unknown word, which is reported while
disassembly goes on (R87, R92). -/
structure ListingEntry where
  address : Nat
  word : Word
  source : Option SourceInstr
  deriving DecidableEq, Repr

/-- The entries of an image whose first byte lies at `address`, two bytes each, high byte first (R86, R87). A last byte without a
partner is no instruction (R70; log entry 32). -/
def listingEntries (address : Nat) : List Byte → List ListingEntry
  | hi :: lo :: rest => ⟨address, wordOfBytes hi lo, disassemble (wordOfBytes hi lo)⟩ :: listingEntries (address + 2) rest
  | [_] | [] => []

/-- A listing line, `ADDRESS  MNEMONIC OPERANDS  ; 0xOPCODE` (R88), or the placeholder line of an unknown word (R92). -/
def listingLine (entry : ListingEntry) : List Char :=
  match entry.source with
  | some src => addressText entry.address ++ [' ', ' '] ++ render src ++ [' ', ' ', ';', ' '] ++ opcodeText entry.word
  | none => Config.placeholderLine entry.address entry.word

/-- The listing of an image, at the addresses its bytes are loaded to (R86, R88; log entry 32). -/
def listing (image : List Byte) : List (List Char) := (listingEntries Config.programOrigin image).map listingLine

end Sys2Proof.Machine
end

