-- ==== Sys2Proof/Safety.lean ====
section
/-! DEFINITION. The terms claims are stated in: frames (what stays unchanged), the faults each instruction can raise (R177), the
registers and parts each may write (R39), where `PC` goes (R22), the invariant of reachable states (R38), states at rest (R196). -/

namespace Sys2Proof.Machine

/-! Frames. -/

/-- The parts of the state beside the general registers, `PC` and the report. -/
inductive Part where
  | index | stack | delayTimer | soundTimer | key | frameBuffer | dirty | memory | faultRecord | hostSide | lateRom | draws
  deriving DecidableEq, Repr

/-- A part reads the same in two states. The stack includes `SP`; the fault record includes `STATUS`; memory and the frame buffer
are compared byte by byte and cell by cell. -/
def Part.same : Part → State → State → Prop
  | .index, s, t => t.i = s.i
  | .stack, s, t => t.sp = s.sp ∧ ∀ j, t.slot j = s.slot j
  | .delayTimer, s, t => t.dt = s.dt
  | .soundTimer, s, t => t.st = s.st
  | .key, s, t => t.key = s.key
  | .frameBuffer, s, t => ∀ col row, t.pixelAt col row = s.pixelAt col row
  | .dirty, s, t => t.dirty = s.dirty
  | .memory, s, t => ∀ a, t.byteAt a = s.byteAt a
  | .faultRecord, s, t => t.status = s.status ∧ t.faultCode = s.faultCode ∧ t.faultInfo = s.faultInfo
  | .hostSide, s, t => t.input = s.input ∧ t.host = s.host
  | .lateRom, s, t => t.lateRom = s.lateRom
  | .draws, s, t => t.draws = s.draws

/-- From `s` to `t` every general register outside `regs` and every part outside `parts` is unchanged. `PC` and the report are not
spoken of. -/
def FrameBut (s t : State) (regs : List Nibble) (parts : List Part) : Prop :=
  (∀ r, r ∉ regs → t.reg r = s.reg r) ∧ ∀ p, p ∉ parts → p.same s t

/-- Every byte of memory outside the `n` bytes from `base` on is unchanged. -/
def MemoryFrameOutside (s t : State) (base n : Nat) : Prop :=
  ∀ a, ¬ (base ≤ a ∧ a < base + n) → t.byteAt a = s.byteAt a

/-! What an instruction does, in shapes several instructions share. -/

/-- The instruction completes: its only effect is `PC <- PC + 4` when `cond` holds and `PC <- PC + 2` when not (R107); where that
is past the last word of memory, the next fetch faults. -/
def SkipsIf (i : Instr) (s : State) (cond : Prop) : Prop :=
  ∃ t, exec i s = .next t ∧ (cond → t.pc = s.pc + 4) ∧ (¬ cond → t.pc = s.pc + 2) ∧ t.report = some .running ∧
    FrameBut s t [] [] ∧
    (4094 < t.pc.toNat → t.fetch = .error ⟨.memoryOutOfRange, if t.pc.toNat = 4095 then 4096 else t.pc⟩)

/-- The instruction raises a fault (R176): `STATUS`, `FAULT_CODE` and `FAULT_INFO` are written, `PC` and all else stay. -/
def FaultsWith (i : Instr) (s : State) (f : MachineFault) : Prop :=
  ∃ t, exec i s = .next t ∧ t.status = .halted ∧ t.faultCode = f.code ∧ t.faultInfo = f.info ∧ t.pc = s.pc ∧
    t.report = some .halted ∧ FrameBut s t [] [.faultRecord]

/-- The lowest address that is not valid of an access from `I` on that runs past the end (R144), as `FAULT_INFO`. -/
def lowestInvalid (s : State) : Word := if s.i.toNat > 4095 then s.i else 4096

/-- The fault an instruction raises in its execute step, if any (R177). -/
def faultOf : Instr → State → Option MachineFault
  | .ret, s => if s.sp.toNat = 0 then some ⟨.stackUnderflow, 0⟩ else none
  | .call _, s => if s.sp.toNat = 15 then some ⟨.stackOverflow, 15⟩ else none
  | .bcd _, s => if s.i.toNat + 2 > 4095 then some ⟨.memoryOutOfRange, lowestInvalid s⟩ else none
  | .push x, s | .pop x, s => if s.i.toNat + x.toNat > 4095 then some ⟨.memoryOutOfRange, lowestInvalid s⟩ else none
  | .draw _ _ n, s =>
    if n.toNat ≥ 1 ∧ s.i.toNat + n.toNat - 1 > 4095 then some ⟨.memoryOutOfRange, lowestInvalid s⟩ else none
  | .cls, _ | .jump _, _ | .ske _ _, _ | .skne _ _, _ | .skre _ _, _ | .load _ _, _ | .add _ _, _ | .move _ _, _
  | .or _ _, _ | .and _ _, _ | .xor _ _, _ | .addr _ _, _ | .sub _ _, _ | .shr _, _ | .subb _ _, _ | .shl _, _
  | .jneq _ _, _ | .loadi _, _ | .jumpi _, _ | .rand _ _, _ | .skpr _, _ | .skup _, _ | .moved _, _ | .keyd _, _
  | .loadd _, _ | .loads _, _ | .addi _, _ | .ldspr _, _ => none

/-- The general registers an instruction may write (R39). -/
def regsWritten : Instr → List Nibble
  | .load x _ | .add x _ | .move x _ | .or x _ | .and x _ | .xor x _ | .rand x _ | .moved x | .keyd x => [x]
  | .addr x _ | .sub x _ | .subb x _ | .shr x | .shl x => [x, 15]
  | .draw _ _ _ | .addi _ => [15]
  | .pop x => (List.range (x.toNat + 1)).map (BitVec.ofNat 4)
  | .cls | .ret | .jump _ | .call _ | .ske _ _ | .skne _ _ | .skre _ _ | .jneq _ _ | .loadi _ | .jumpi _ | .skpr _ | .skup _
  | .loadd _ | .loads _ | .ldspr _ | .bcd _ | .push _ => []

/-- The other parts an instruction may write when it completes (R39); `draws` is the model's own count for RAND. -/
def partsWritten : Instr → List Part
  | .cls => [.frameBuffer, .dirty]
  | .ret | .call _ => [.stack]
  | .draw _ _ _ => [.frameBuffer, .dirty]
  | .loadi _ | .addi _ | .ldspr _ => [.index]
  | .bcd _ | .push _ => [.memory]
  | .loadd _ => [.delayTimer]
  | .loads _ => [.soundTimer]
  | .rand _ _ => [.draws]
  | .jump _ | .ske _ _ | .skne _ _ | .skre _ _ | .load _ _ | .add _ _ | .move _ _ | .or _ _ | .and _ _ | .xor _ _ | .addr _ _
  | .sub _ _ | .shr _ | .subb _ _ | .shl _ | .jneq _ _ | .jumpi _ | .skpr _ | .skup _ | .moved _ | .keyd _ | .pop _ => []

/-- What R39 leaves alone inside a part that partsWritten names, or of a register that regsWritten names: RET writes no slot, CALL
the slot `SP + 1` only, BCD and PUSH the bytes from `I` on only, ADDI `V[15]` on wraparound only, KEYD nothing without an event. -/
def WritesNarrowly : Instr → State → State → Prop
  | .ret, s, t => ∀ j, t.slot j = s.slot j
  | .call _, s, t => ∀ j, j ≠ s.sp + 1 → t.slot j = s.slot j
  | .bcd _, s, t => MemoryFrameOutside s t s.base 3
  | .push x, s, t => MemoryFrameOutside s t s.base (x.toNat + 1)
  | .addi x, s, t => s.i.toNat + (s.reg x).toNat ≤ 0xFFF → t.reg 15 = s.reg 15
  | .keyd x, s, t => s.input.keyEvent = none → t.reg x = s.reg x ∧ t.pc = s.pc
  | .cls, _, _ | .jump _, _, _ | .ske _ _, _, _ | .skne _ _, _, _ | .skre _ _, _, _ | .load _ _, _, _ | .add _ _, _, _
  | .move _ _, _, _ | .or _ _, _, _ | .and _ _, _, _ | .xor _ _, _, _ | .addr _ _, _, _ | .sub _ _, _, _ | .shr _, _, _
  | .subb _ _, _, _ | .shl _, _, _ | .jneq _ _, _, _ | .loadi _, _, _ | .jumpi _, _, _ | .rand _ _, _, _ | .draw _ _ _, _, _
  | .skpr _, _, _ | .skup _, _, _ | .moved _, _, _ | .loadd _, _, _ | .loads _, _, _ | .ldspr _, _, _ | .pop _, _, _ => True

/-- Where `PC` goes when an instruction completes (R22, R107): `PC + 2`, a skip, or a target. -/
def pcAfter : Instr → State → Word
  | .jump nnn, _ | .call nnn, _ => BitVec.ofNat 16 nnn.toNat
  | .jumpi nnn, s => BitVec.ofNat 16 (nnn.toNat + (s.reg 0).toNat)
  | .ret, s => s.slot s.sp
  | .ske x nn, s => if s.reg x = nn then s.pc + 4 else s.pc + 2
  | .skne x nn, s => if s.reg x = nn then s.pc + 2 else s.pc + 4
  | .skre x y, s => if s.reg x = s.reg y then s.pc + 4 else s.pc + 2
  | .jneq x y, s => if s.reg x = s.reg y then s.pc + 2 else s.pc + 4
  | .skpr x, s => if s.key = s.reg x then s.pc + 4 else s.pc + 2
  | .skup x, s => if s.key = s.reg x then s.pc + 2 else s.pc + 4
  | .cls, s | .load _ _, s | .add _ _, s | .move _ _, s | .or _ _, s | .and _ _, s | .xor _ _, s | .addr _ _, s | .sub _ _, s
  | .shr _, s | .subb _ _, s | .shl _, s | .loadi _, s | .rand _ _, s | .draw _ _ _, s | .moved _, s | .keyd _, s
  | .loadd _, s | .loads _, s | .addi _, s | .ldspr _, s | .bcd _, s | .push _, s | .pop _, s => s.pc + 2

/-- Is there a set sprite bit for the pixel (col, row) of the `n`-row sprite at `I` drawn at (px, py)? Bit 7 is the leftmost pixel,
byte `I + r` is row `r` downward (R151, R152 b). -/
def spriteCovers (s : State) (px py n col row : Nat) : Bool :=
  decide (px ≤ col ∧ col < px + 8 ∧ py ≤ row ∧ row < py + n) && (s.byteAt (s.i.toNat + (row - py))).getLsbD (7 - (col - px))

/-! Runs. -/

/-- Execute instructions one after the other, with no fetch between them. -/
def execAll : List Instr → State → Host.Outcome State Fault Refusal
  | [], s => .next s
  | i :: rest, s =>
    match exec i s with
    | .next t => execAll rest t
    | .fault f => .fault f
    | .refused r => .refused r

/-- Apply a function to a next state. -/
def mapNext (f : State → State) : Host.Outcome State Fault Refusal → Host.Outcome State Fault Refusal
  | .next t => .next (f t)
  | .fault r => .fault r
  | .refused r => .refused r

/-- The states reachable from reset by cycles and host operations (R38): from reset with any schedule of the host, by steps. A turn
without a cycle ends a step in the gap, so the states between two cycles and after the last one are among them (R190). -/
inductive Reachable : State → Prop where
  | start (schedule : List Drive) : Reachable { State.reset with host := schedule }
  | next (s t : State) : Reachable s → step s = .next t → Reachable t

/-- What holds in every reachable state (R38), with the canonical forms of memory and frame buffer. -/
structure Inv (s : State) : Prop where
  memory : Memory.wf s.mem
  frameBuffer : FrameBuffer.wf s.fb
  index : s.i.toNat ≤ 0xFFF
  pc : s.pc.toNat ≤ 0x10FE
  slotZero : s.slot 0 = 0
  slots : ∀ j, (s.slot j).toNat ≤ 0xFFE

/-- The executor is Halted exactly when a fault is recorded (R32, R175). -/
def FaultRecorded (s : State) : Prop := s.status = .halted ↔ s.faultCode ≠ .none

/-- At rest (R196): Running, with `JUMP PC` at `PC`. -/
def AtRest (s : State) : Prop :=
  s.status = .running ∧ s.pc.toNat ≤ 0xFFE ∧
    (s.byteAt s.pc.toNat).toNat * 256 + (s.byteAt (s.pc.toNat + 1)).toNat = 0x1000 + s.pc.toNat

end Sys2Proof.Machine
end

