-- ==== Sys2Proof/Certificates/Slice0/Obligations.lean ====
section
/-! DEFINITION. The statements for the provers, each from the spec's rules; OBLIGATIONS.json lists them. Those that rest on a
decision of the spec (92_eei_decisions.md) or of the model (notes/assumptions) say so. -/

open Sys2Proof Sys2Proof.Machine

/-! Encoding (30_encoding.md) -/

/-- Words of 95_test_vectors.md part 3. The templates other than LOAD, JUMP, CALL are the spec's general knowledge (log entry 5). -/
def Obligations.SampleWordsDecode : Prop :=
  decode 0x00E0 = .ok .cls ∧ decode 0x00EE = .ok .ret ∧ decode 0x1AAA = .ok (.jump 0xAAA) ∧ decode 0x2FFF = .ok (.call 0xFFF) ∧
  decode 0x45AB = .ok (.skne 5 0xAB) ∧ decode 0x5AB0 = .ok (.skre 0xA 0xB) ∧ decode 0x6A02 = .ok (.load 0xA 2) ∧
  decode 0x8AB5 = .ok (.sub 0xA 0xB) ∧ decode 0x8AB6 = .ok (.shr 0xA) ∧ decode 0xC10F = .ok (.rand 1 0x0F) ∧
  decode 0xD122 = .ok (.draw 1 2 2) ∧ decode 0xE5A1 = .ok (.skup 5) ∧ decode 0xF50A = .ok (.keyd 5) ∧
  decode 0xF533 = .ok (.bcd 5) ∧ decode 0xF565 = .ok (.pop 5) ∧
  decode 0x0000 = .error (.unrecognized 0x0000) ∧ decode 0x5AB8 = .error (.unrecognized 0x5AB8) ∧
  decode 0x8ABF = .error (.unrecognized 0x8ABF) ∧ decode 0xE59F = .error (.unrecognized 0xE59F) ∧
  decode 0xF575 = .error (.unrecognized 0xF575)

/-- The round trip word and byte level (95_test_vectors.md S7). No operand bit of an encoding is dropped. -/
def Obligations.DecodeInvertsEncode : Prop :=
  ∀ (i : Instr) (rest : List Byte), decode (encode i) = .ok i ∧ decodeBytes (encodeBytes i ++ rest) = .ok (i, rest)

/-- Rule R90, its consistency test included. -/
def Obligations.SourceRoundTrip : Prop :=
  (∀ src : SourceInstr, src.wellFormed = true →
    ∃ w i, src.pack = some w ∧ decode w = .ok i ∧ i.source = src ∧ disassemble w = some src ∧
      (src.mnemonic.ignoresY = true → opY w = 0 ∧ src.operands.length = 1)) ∧
  (∀ (op : Word) (i : Instr), decode op = .ok i → disassemble op = some i.source) ∧
  ∀ (op : Word) (e : DecodeError), decode op = .error e → disassemble op = none

/-- The decoder's algorithm and the opcode map agree on all 65536 words; the rows are pairwise disjoint. Decisions D9 and D10 of the spec. -/
def Obligations.DecodeFollowsOpcodeMap : Prop :=
  ∀ op : Word,
    (∀ i, decode op = .ok i → ∀ row ∈ opcodeMap, row.accepts op = true ↔ row.mnemonic = i.mnemonic) ∧
    (∀ e, decode op = .error e → e = .unrecognized op ∧ ∀ row ∈ opcodeMap, row.accepts op = false)

/-- The table of unrecognised words of 30_encoding.md section 4; decisions D9 to D11 of the spec. -/
def Obligations.UnrecognizedWordsAreExactly : Prop :=
  ∀ op : Word, decode op = .error (.unrecognized op) ↔
    (opTop op = 0x0 ∧ op ≠ 0x00E0 ∧ op ≠ 0x00EE) ∨ (opTop op = 0x5 ∧ opN op ≠ 0) ∨
    (opTop op = 0x8 ∧ opN op ∈ ([0x8, 0x9, 0xA, 0xB, 0xC, 0xD, 0xF] : List Nibble)) ∨ (opTop op = 0x9 ∧ opN op ≠ 0) ∨
    (opTop op = 0xE ∧ opNn op ≠ 0x9E ∧ opNn op ≠ 0xA1) ∨
    (opTop op = 0xF ∧ opNn op ∉ ([0x07, 0x0A, 0x15, 0x18, 0x1E, 0x29, 0x33, 0x55, 0x65] : List Byte))

/-- The other direction of the round trip; the ignored bits are those of decision D8 of the spec. -/
def Obligations.EncodeInvertsDecode : Prop :=
  ∀ (op : Word) (i : Instr), decode op = .ok i →
    (i.mnemonic ≠ .shr ∧ i.mnemonic ≠ .shl → encode i = op) ∧
    (i.mnemonic = .shr ∨ i.mnemonic = .shl → encode i = op &&& 0xFF0F)

/-- Rule R70. -/
def Obligations.InstructionsAreTwoBytes : Prop :=
  (∀ i : Instr, ∃ hi lo, encodeBytes i = [hi, lo] ∧ (encode i).toNat = hi.toNat * 256 + lo.toNat) ∧
  (∀ (b0 b1 : Byte) (rest r : List Byte) (i : Instr), decodeBytes (b0 :: b1 :: rest) = .ok (i, r) →
    r = rest ∧ decode (wordOfBytes b0 b1) = .ok i) ∧
  ∀ bytes : List Byte, bytes.length < 2 → decodeBytes bytes = .error (.truncated bytes.length)

/-- The class formulas against the field layout: two ways the spec writes one encoding. -/
def Obligations.PackingAgreesWithEncode : Prop :=
  ∀ i : Instr, i.wellFormed = true ∧ i.source.pack = some (encode i)

/-! Fetch, cycle and step (20_memory.md, 60_exceptions.md) -/

/-- The step around exec: the host's moves, then fetch and decode. Turns and the empty schedule are the model's choice (log entry 1). -/
def Obligations.StepRunsDecodedInstruction : Prop :=
  (∀ (s t : State) (i : Instr), s.nextDrive.input ≠ none → s.hostPhase = .ok t → t.status = .running → t.pc.toNat ≤ 4094 →
    decode (wordOfBytes (t.byteAt t.pc.toNat) (t.byteAt (t.pc.toNat + 1))) = .ok i → step s = exec i t) ∧
  ∀ s : State, s.host = [] → s.nextDrive.input ≠ none ∧
    (s.lateRom = false → s.hostPhase = .ok { s with input := ⟨none, none⟩ })

/-- Rule R54. -/
def Obligations.FetchIsBigEndian : Prop :=
  ∀ s : State,
    (s.pc.toNat ≤ 4094 → ∃ op, s.fetch = .ok op ∧
      op.toNat = (s.byteAt s.pc.toNat).toNat * 256 + (s.byteAt (s.pc.toNat + 1)).toNat ∧
      op.extractLsb' 8 8 = s.byteAt s.pc.toNat ∧ op.extractLsb' 0 8 = s.byteAt (s.pc.toNat + 1)) ∧
    (s.pc.toNat = 4095 → s.fetch = .error ⟨.memoryOutOfRange, 4096⟩) ∧
    (4095 < s.pc.toNat → s.fetch = .error ⟨.memoryOutOfRange, s.pc⟩) ∧
    ∀ f, s.status = .running → s.fetch = .error f → cycle s = .next (s.raise f)

/-- Decision D27 of the spec (log entry 26). -/
def Obligations.HaltedCycleChangesNothing : Prop :=
  ∀ s : State, s.status = .halted →
    ∃ t, cycle s = .next t ∧ t.report = some .halted ∧ t.pc = s.pc ∧ FrameBut s t [] []

/-- Decisions D12 to D14 of the spec (log entry 26). -/
def Obligations.FetchAndDecodeFaultsHalt : Prop :=
  ∀ s : State, s.status = .running →
    (4095 ≤ s.pc.toNat → ∃ t, cycle s = .next t ∧ t.status = .halted ∧ t.faultCode = .memoryOutOfRange ∧
      t.faultInfo = (if s.pc.toNat = 4095 then 4096 else s.pc) ∧ t.pc = s.pc ∧ t.report = some .halted ∧
      FrameBut s t [] [.faultRecord]) ∧
    (s.pc.toNat ≤ 4094 → ∀ op e, op = wordOfBytes (s.byteAt s.pc.toNat) (s.byteAt (s.pc.toNat + 1)) → decode op = .error e →
      ∃ t, cycle s = .next t ∧ t.status = .halted ∧ t.faultCode = .unrecognizedOpcode ∧ t.faultInfo = op ∧ t.pc = s.pc ∧
        t.report = some .halted ∧ FrameBut s t [] [.faultRecord])

/-! Memory (20_memory.md, 42_index_memory.md) -/

/-- Rule R52; that a read has no side effect is in its type: it yields a byte and no state. -/
def Obligations.MemReadRule : Prop :=
  ∀ (s : State) (a : Nat), (4095 < a → s.memRead a = .error ⟨.memoryOutOfRange, BitVec.ofNat 16 a⟩) ∧
    (a ≤ 4095 → s.memRead a = .ok (s.byteAt a))

/-- Decisions D12, D13, D18 of the spec (log entries 26, 28). -/
def Obligations.BlockRangeRule : Prop :=
  ∀ base m : Nat, 1 ≤ m →
    (base + m - 1 ≤ 4095 → rangeFault base m = none) ∧
    (4095 < base + m - 1 →
      rangeFault base m = some ⟨.memoryOutOfRange, BitVec.ofNat 16 (if 4095 < base then base else 4096)⟩)

/-- MemWrite over a block; decision D18 of the spec (log entry 28). That memory keeps a canonical form is the model's choice (log entry 8). -/
def Obligations.BlockStoreRule : Prop :=
  ∀ (s : State) (base : Nat) (bytes : List Byte), base + bytes.length ≤ 4096 →
    ∃ t, s.storeBlock base bytes = .ok t ∧
      (∀ k (h : k < bytes.length), t.byteAt (base + k) = bytes[k]) ∧ MemoryFrameOutside s t base bytes.length ∧
      t.pc = s.pc ∧ t.report = s.report ∧ FrameBut s t [] [.memory] ∧ (Memory.wf s.mem → Memory.wf t.mem)

/-- The canonical form is unique; the model's representation (log entry 8). -/
def Obligations.EqualMemoriesAreEqualData : Prop :=
  ∀ m m' : List Host.Cell, Memory.wf m → Memory.wf m' → (∀ a, readByte m a = readByte m' a) → m = m'

/-- Decision D31 of the spec: one memory, no fence. -/
def Obligations.StoreSeenByNextFetch : Prop :=
  ∀ (s t : State) (a : Nat) (hi lo : Byte), a ≤ 4094 → s.storeBlock a [hi, lo] = .ok t → t.pc.toNat = a →
    t.fetch = .ok (wordOfBytes hi lo)

/-! Control transfer (40_control_transfer.md) -/

/-- Rule R101, its encoding (given by the source) included. -/
def Obligations.JumpSetsPc : Prop :=
  ∀ nnn : Addr12, decode (0x1#4 ++ nnn) = .ok (.jump nnn) ∧ ∀ s : State,
    ∃ t, exec (.jump nnn) s = .next t ∧ t.pc.toNat = nnn.toNat ∧ t.report = some .running ∧ FrameBut s t [] [] ∧
      (s.pc.toNat = nnn.toNat → t = s.setReport .running) ∧
      (4094 < nnn.toNat → t.fetch = .error ⟨.memoryOutOfRange, 4096⟩)

/-- Decision D5 of the spec (log entry 25). -/
def Obligations.CallPushesOwnAddress : Prop :=
  ∀ (nnn : Addr12) (s : State),
    (s.sp ≠ 15 → ∃ t, exec (.call nnn) s = .next t ∧ t.sp.toNat = s.sp.toNat + 1 ∧ t.slot t.sp = s.pc ∧
      (∀ j, j ≠ t.sp → t.slot j = s.slot j) ∧ t.pc.toNat = nnn.toNat ∧ t.report = some .running ∧ FrameBut s t [] [.stack]) ∧
    (s.sp = 15 → FaultsWith (.call nnn) s ⟨.stackOverflow, 15⟩)

/-- Decisions D5 and D13 of the spec (log entry 25). -/
def Obligations.RetPopsPushedAddress : Prop :=
  ∀ s : State,
    (s.sp ≠ 0 → ∃ t, exec .ret s = .next t ∧ t.pc = s.slot s.sp ∧ t.sp.toNat + 1 = s.sp.toNat ∧
      (∀ j, t.slot j = s.slot j) ∧ t.report = some .running ∧ FrameBut s t [] [.stack]) ∧
    (s.sp = 0 → FaultsWith .ret s ⟨.stackUnderflow, 0⟩)

/-- Rule R107, what the six skips share, with each one's condition (R103 to R106, R160, R161). That SKPR and SKUP compare all eight bits of KEY and V[x] is decision D19 of the spec (log entry 18). -/
def Obligations.ConditionalSkipsAdvance : Prop :=
  ∀ (x y : Nibble) (nn : Byte) (s : State),
    SkipsIf (.ske x nn) s (s.reg x = nn) ∧ SkipsIf (.skne x nn) s (s.reg x ≠ nn) ∧
    SkipsIf (.skre x y) s (s.reg x = s.reg y) ∧ SkipsIf (.jneq x y) s (s.reg x ≠ s.reg y) ∧
    SkipsIf (.skpr x) s (s.key = s.reg x) ∧ SkipsIf (.skup x) s (s.key ≠ s.reg x)

/-- Decision D16 of the spec (log entry 29). -/
def Obligations.JumpiAddsRegisterZero : Prop :=
  ∀ (nnn : Addr12) (s : State),
    ∃ t, exec (.jumpi nnn) s = .next t ∧ t.pc.toNat = nnn.toNat + (s.reg 0).toNat ∧ t.report = some .running ∧
      FrameBut s t [] [] ∧
      (4095 < nnn.toNat + (s.reg 0).toNat → t.fetch = .error ⟨.memoryOutOfRange, t.pc⟩)

/-- Rule R216: RET loads exactly the value CALL pushed, and adds nothing. -/
def Obligations.RetReturnsToTheCall : Prop :=
  ∀ (nnn : Addr12) (s : State), s.sp ≠ 15 →
    ∃ t u, exec (.call nnn) s = .next t ∧ exec .ret t = .next u ∧ u.pc = s.pc ∧ u.sp = s.sp ∧ t.sp ≠ s.sp

/-- The source's stack discipline (95_test_vectors.md S11) and the depth limit; decisions D5 (log entry 25) and D13 (log entry 26) of the spec. -/
def Obligations.CallsThenReturnsRestore : Prop :=
  ∀ (targets : List Addr12) (s : State),
    (s.sp.toNat + targets.length ≤ 15 → ∃ t u, execAll (targets.map .call) s = .next t ∧
      t.sp.toNat = s.sp.toNat + targets.length ∧ FrameBut s t [] [.stack] ∧
      execAll (List.replicate targets.length .ret) t = .next u ∧ u.pc = s.pc ∧ u.sp = s.sp ∧ FrameBut s u [] [.stack]) ∧
    (s.sp.toNat + targets.length = 16 → ∃ t, execAll (targets.map .call) s = .next t ∧ t.status = .halted ∧
      t.faultCode = .stackOverflow ∧ t.faultInfo = 15 ∧ t.sp.toNat = 15 ∧ t.report = some .halted)

/-! Registers, arithmetic, logic, shifts, random (41_alu.md) -/

/-- Rule R120, its encoding (given by the source) included. -/
def Obligations.LoadWritesImmediate : Prop :=
  ∀ (x : Nibble) (nn : Byte), decode (0x6#4 ++ x ++ nn) = .ok (.load x nn) ∧ ∀ s : State,
    ∃ t, exec (.load x nn) s = .next t ∧ t.reg x = nn ∧ t.pc = s.pc + 2 ∧ t.report = some .running ∧ FrameBut s t [x] []

/-- Decision D30 of the spec: no flag. -/
def Obligations.AddWrapsWithoutFlag : Prop :=
  ∀ (x : Nibble) (nn : Byte) (s : State),
    ∃ t, exec (.add x nn) s = .next t ∧ (t.reg x).toNat = ((s.reg x).toNat + nn.toNat) % 256 ∧ t.pc = s.pc + 2 ∧
      t.report = some .running ∧ FrameBut s t [x] []

/-- 41_alu.md, MOVE. -/
def Obligations.MoveCopiesRegister : Prop :=
  ∀ (x y : Nibble) (s : State),
    ∃ t, exec (.move x y) s = .next t ∧ t.reg x = s.reg y ∧ t.reg y = s.reg y ∧ t.pc = s.pc + 2 ∧
      t.report = some .running ∧ FrameBut s t [x] []

/-- Decision D30 of the spec: no flag. The result is said bit by bit. -/
def Obligations.LogicWritesNoFlag : Prop :=
  ∀ (x y : Nibble) (s : State),
    (∃ t, exec (.or x y) s = .next t ∧
      (∀ k < 8, (t.reg x).getLsbD k = ((s.reg x).getLsbD k || (s.reg y).getLsbD k)) ∧
      t.pc = s.pc + 2 ∧ t.report = some .running ∧ FrameBut s t [x] []) ∧
    (∃ t, exec (.and x y) s = .next t ∧
      (∀ k < 8, (t.reg x).getLsbD k = ((s.reg x).getLsbD k && (s.reg y).getLsbD k)) ∧
      t.pc = s.pc + 2 ∧ t.report = some .running ∧ FrameBut s t [x] []) ∧
    (∃ t, exec (.xor x y) s = .next t ∧
      (∀ k < 8, (t.reg x).getLsbD k = xor ((s.reg x).getLsbD k) ((s.reg y).getLsbD k)) ∧
      t.pc = s.pc + 2 ∧ t.report = some .running ∧ FrameBut s t [x] [])

/-- Decision D6 of the spec for x = 15 (log entry 16). -/
def Obligations.AddrSetsCarry : Prop :=
  ∀ (x y : Nibble) (s : State),
    ∃ t, exec (.addr x y) s = .next t ∧ (x ≠ 15 → (t.reg x).toNat = ((s.reg x).toNat + (s.reg y).toNat) % 256) ∧
      t.reg 15 = (if (s.reg x).toNat + (s.reg y).toNat > 255 then 1 else 0) ∧ t.pc = s.pc + 2 ∧
      t.report = some .running ∧ FrameBut s t [x, 15] []

/-- Decision D6 of the spec for x = 15 (log entry 16). -/
def Obligations.SubtractSetsNoBorrow : Prop :=
  ∀ (x y : Nibble) (s : State),
    (∃ t, exec (.sub x y) s = .next t ∧
      (x ≠ 15 → ((t.reg x).toNat : Int) = ((s.reg x).toNat - (s.reg y).toNat : Int) % 256) ∧
      t.reg 15 = (if (s.reg x).toNat ≥ (s.reg y).toNat then 1 else 0) ∧ t.pc = s.pc + 2 ∧ t.report = some .running ∧
      FrameBut s t [x, 15] []) ∧
    (∃ t, exec (.subb x y) s = .next t ∧
      (x ≠ 15 → ((t.reg x).toNat : Int) = ((s.reg y).toNat - (s.reg x).toNat : Int) % 256) ∧
      t.reg 15 = (if (s.reg y).toNat ≥ (s.reg x).toNat then 1 else 0) ∧ t.pc = s.pc + 2 ∧ t.report = some .running ∧
      FrameBut s t [x, 15] [])

/-- Decision D6 of the spec for x = 15 (log entry 16), D8 for the ignored y. -/
def Obligations.ShiftsCaptureBit : Prop :=
  ∀ (x : Nibble) (s : State),
    (∃ t, exec (.shr x) s = .next t ∧
      (x ≠ 15 → (t.reg 15).toNat = (s.reg x).toNat % 2 ∧ (t.reg x).toNat = (s.reg x).toNat / 2) ∧
      (x = 15 → t.reg 15 = 0) ∧ t.pc = s.pc + 2 ∧ t.report = some .running ∧ FrameBut s t [x, 15] []) ∧
    (∃ t, exec (.shl x) s = .next t ∧
      (x ≠ 15 → (t.reg 15).toNat = (s.reg x).toNat / 128 ∧ (t.reg x).toNat = 2 * (s.reg x).toNat % 256) ∧
      (x = 15 → (t.reg 15).toNat = 2 * ((s.reg 15).toNat / 128)) ∧ t.pc = s.pc + 2 ∧ t.report = some .running ∧
      FrameBut s t [x, 15] [])

/-- Decision D24 of the spec; the free byte is log entry 3. Holds whatever Config.drawByte is. -/
def Obligations.RandMasksDraw : Prop :=
  ∀ (x : Nibble) (nn : Byte) (s : State),
    ∃ t, exec (.rand x nn) s = .next t ∧ (∀ d, s.input.draw = some d → t.reg x = d &&& nn) ∧
      (s.input.draw = none → t.reg x = Config.drawByte s.draws &&& nn) ∧
      (∀ k, nn.getLsbD k = false → (t.reg x).getLsbD k = false) ∧ t.draws = s.draws + 1 ∧ t.pc = s.pc + 2 ∧
      t.report = some .running ∧ FrameBut s t [x] [.draws]

/-! Index register and memory (42_index_memory.md) -/

/-- 42_index_memory.md, LOADI. The encoding is the spec's general knowledge (log entry 5) and not part of this statement. -/
def Obligations.LoadiSetsIndex : Prop :=
  ∀ (nnn : Addr12) (s : State),
    ∃ t, exec (.loadi nnn) s = .next t ∧ t.i.toNat = nnn.toNat ∧ t.pc = s.pc + 2 ∧ t.report = some .running ∧
      FrameBut s t [] [.index]

/-- Decision D7 of the spec (log entry 30). -/
def Obligations.AddiWrapsIndex : Prop :=
  ∀ (x : Nibble) (s : State),
    ∃ t, exec (.addi x) s = .next t ∧ t.i.toNat = (s.i.toNat + (s.reg x).toNat) % 4096 ∧
      (0xFFF < s.i.toNat + (s.reg x).toNat → t.reg 15 = 1 ∧ FrameBut s t [15] [.index]) ∧
      (s.i.toNat + (s.reg x).toNat ≤ 0xFFF → FrameBut s t [] [.index]) ∧ t.pc = s.pc + 2 ∧ t.report = some .running

/-- Decision D2 of the spec (log entry 6). -/
def Obligations.LdsprPointsAtGlyph : Prop :=
  ∀ (x : Nibble) (s : State),
    ∃ t, exec (.ldspr x) s = .next t ∧ t.i.toNat = fontBase + 5 * ((s.reg x).toNat % 16) ∧ t.pc = s.pc + 2 ∧
      t.report = some .running ∧ FrameBut s t [] [.index]

/-- Decisions D18 (range) and D29 (I unchanged) of the spec. The stored block starts at State.base, I as a number, as the meaning's. -/
def Obligations.BcdStoresDigits : Prop :=
  ∀ (x : Nibble) (s : State), s.base + 2 ≤ 4095 →
    ∃ t, exec (.bcd x) s = .next t ∧ (t.byteAt s.base).toNat = (s.reg x).toNat / 100 ∧
      (t.byteAt (s.base + 1)).toNat = (s.reg x).toNat / 10 % 10 ∧ (t.byteAt (s.base + 2)).toNat = (s.reg x).toNat % 10 ∧
      MemoryFrameOutside s t s.base 3 ∧ t.pc = s.pc + 2 ∧ t.report = some .running ∧ FrameBut s t [] [.memory]

/-- Decision D18 of the spec for the range check. The stored block starts at State.base, I as a number, as the meaning's. -/
def Obligations.PushStoresRegisters : Prop :=
  ∀ (x : Nibble) (s : State), s.base + x.toNat ≤ 4095 →
    ∃ t, exec (.push x) s = .next t ∧ (∀ r : Nibble, r.toNat ≤ x.toNat → t.byteAt (s.base + r.toNat) = s.reg r) ∧
      MemoryFrameOutside s t s.base (x.toNat + 1) ∧ t.pc = s.pc + 2 ∧ t.report = some .running ∧ FrameBut s t [] [.memory]

/-- Decisions D18 and D29 of the spec. -/
def Obligations.PopLoadsRegisters : Prop :=
  ∀ (x : Nibble) (s : State), s.i.toNat + x.toNat ≤ 4095 →
    ∃ t, exec (.pop x) s = .next t ∧ (∀ r : Nibble, r.toNat ≤ x.toNat → t.reg r = s.byteAt (s.i.toNat + r.toNat)) ∧
      (∀ r : Nibble, x.toNat < r.toNat → t.reg r = s.reg r) ∧ t.pc = s.pc + 2 ∧ t.report = some .running ∧
      ∀ p : Part, p.same s t

/-- Decisions D12, D13, D18 of the spec (log entries 26, 28). -/
def Obligations.BlockAccessFaults : Prop :=
  ∀ (x y n : Nibble) (s : State),
    (4095 < s.i.toNat + 2 → FaultsWith (.bcd x) s ⟨.memoryOutOfRange, lowestInvalid s⟩) ∧
    (4095 < s.i.toNat + x.toNat →
      FaultsWith (.push x) s ⟨.memoryOutOfRange, lowestInvalid s⟩ ∧
      FaultsWith (.pop x) s ⟨.memoryOutOfRange, lowestInvalid s⟩) ∧
    (1 ≤ n.toNat → 4095 < s.i.toNat + n.toNat - 1 → FaultsWith (.draw x y n) s ⟨.memoryOutOfRange, lowestInvalid s⟩)

/-! Display (43_display.md) -/

/-- 43_display.md, CLS. The encoding is the spec's general knowledge (log entry 5) and not part of this statement. -/
def Obligations.ClsClearsScreen : Prop :=
  ∀ s : State,
    ∃ t, exec .cls s = .next t ∧ (∀ col < 64, ∀ row < 32, t.pixelAt col row = 0) ∧ t.dirty = true ∧ t.pc = s.pc + 2 ∧
      t.report = some .running ∧ FrameBut s t [] [.frameBuffer, .dirty]

/-- The loop of DRAW against its closed form; the coordinates are the old register values, the flag included. Decision D17 of the spec (log entry 17). -/
def Obligations.DrawFlipsCoveredCells : Prop :=
  ∀ (x y n : Nibble) (s : State), (n.toNat = 0 ∨ s.i.toNat + n.toNat - 1 ≤ 4095) →
    ∃ t, exec (.draw x y n) s = .next t ∧
      (∀ col < 64, ∀ row < 32, t.pixelAt col row =
        if spriteCovers s (s.reg x).toNat (s.reg y).toNat n.toNat col row then s.pixelAt col row ^^^ 1 else s.pixelAt col row) ∧
      ((∃ col < 64, ∃ row < 32, spriteCovers s (s.reg x).toNat (s.reg y).toNat n.toNat col row = true ∧
        s.pixelAt col row = 1) → t.reg 15 = 1) ∧
      ((¬ ∃ col < 64, ∃ row < 32, spriteCovers s (s.reg x).toNat (s.reg y).toNat n.toNat col row = true ∧
        s.pixelAt col row = 1) → t.reg 15 = 0) ∧
      t.dirty = true ∧ t.pc = s.pc + 2 ∧ t.report = some .running ∧ FrameBut s t [15] [.frameBuffer, .dirty]

/-- A corner case of DRAW; decision D17 of the spec (log entry 17). -/
def Obligations.DrawTwiceRestores : Prop :=
  ∀ (x y n : Nibble) (s : State), x ≠ 15 → y ≠ 15 → (n.toNat = 0 ∨ s.i.toNat + n.toNat - 1 ≤ 4095) →
    ∃ t u, exec (.draw x y n) s = .next t ∧ exec (.draw x y n) t = .next u ∧
      (∀ col < 64, ∀ row < 32, u.pixelAt col row = s.pixelAt col row) ∧
      ((∃ col < 64, ∃ row < 32, spriteCovers s (s.reg x).toNat (s.reg y).toNat n.toNat col row = true ∧
        s.pixelAt col row = 0) → u.reg 15 = 1)

/-! Keys and timers (44_key_timer.md) -/

/-- Decisions D19 and D32 of the spec (log entries 2, 18). -/
def Obligations.KeydTakesEventOrWaits : Prop :=
  ∀ (x : Nibble) (s : State),
    (∀ k, s.input.keyEvent = some k → ∃ t, exec (.keyd x) s = .next t ∧ t.reg x = k ∧ t.pc = s.pc + 2 ∧
      t.report = some .running ∧ FrameBut s t [x] []) ∧
    (s.input.keyEvent = none → ∃ t, exec (.keyd x) s = .next t ∧ t.pc = s.pc ∧ t.report = some .needsInput ∧
      FrameBut s t [] [])

/-- 44_key_timer.md, MOVED, LOADD, LOADS. The encodings are the spec's general knowledge (log entry 5) and not part of this statement. -/
def Obligations.TimerInstructions : Prop :=
  ∀ (x : Nibble) (s : State),
    (∃ t, exec (.moved x) s = .next t ∧ t.reg x = s.dt ∧ t.pc = s.pc + 2 ∧ t.report = some .running ∧ FrameBut s t [x] []) ∧
    (∃ t, exec (.loadd x) s = .next t ∧ t.dt = s.reg x ∧ t.pc = s.pc + 2 ∧ t.report = some .running ∧
      FrameBut s t [] [.delayTimer]) ∧
    (∃ t, exec (.loads x) s = .next t ∧ t.st = s.reg x ∧ t.pc = s.pc + 2 ∧ t.report = some .running ∧
      FrameBut s t [] [.soundTimer])

/-- Rule R166: writes by cycle, reads by comparing two states that differ in one timer only. -/
def Obligations.ExecutorNeverTicks : Prop :=
  (∀ s t : State, cycle s = .next t →
    (t.dt ≠ s.dt → ∃ op x, s.fetch = .ok op ∧ decode op = .ok (.loadd x) ∧ t.dt = s.reg x) ∧
    (t.st ≠ s.st → ∃ op x, s.fetch = .ok op ∧ decode op = .ok (.loads x) ∧ t.st = s.reg x)) ∧
  (∀ (i : Instr) (s : State) (b : Byte), (∀ x, i ≠ .moved x) → (∀ x, i ≠ .loadd x) →
    exec i (s.setDt b) = mapNext (fun t => t.setDt b) (exec i s)) ∧
  (∀ (i : Instr) (s : State) (b : Byte), (∀ x, i ≠ .loads x) →
    exec i (s.setSt b) = mapNext (fun t => t.setSt b) (exec i s)) ∧
  (∀ (x : Nibble) (s t : State), exec (.moved x) s = .next t → t.dt = s.dt ∧ t.st = s.st ∧ t.reg x = s.dt) ∧
  (∀ (x : Nibble) (s : State), (∃ t, exec (.loadd x) s = .next t ∧ t.dt = s.reg x) ∧
    ∃ t, exec (.loads x) s = .next t ∧ t.st = s.reg x) ∧
  ∀ s : State, s.tick.pc = s.pc ∧ s.tick.report = s.report ∧ FrameBut s s.tick [] [.delayTimer, .soundTimer]

/-! The whole machine -/

/-- Rule R22; pcAfter (Safety.lean) lists the four ways. Who reports NeedsInput and Halted is R163, R170 and R177 (derived by the spec) with decisions D32 and D12 of the spec (log entries 2, 26); the targets of RET and JUMPI and the conditions of SKPR and SKUP rest on its decisions D5, D16 and D19 (log entries 25, 29, 18). -/
def Obligations.PcDiscipline : Prop :=
  (∀ (i : Instr) (s t : State), exec i s = .next t →
    (t.report = some .running → t.pc = pcAfter i s) ∧ (t.report ≠ some .running → t.pc = s.pc) ∧
    (t.report = some .needsInput ↔ (∃ x, i = .keyd x) ∧ s.input.keyEvent = none) ∧
    (t.report = some .halted ↔ faultOf i s ≠ none)) ∧
  (∀ (nnn : Addr12) (s t : State), s.sp ≠ 15 → exec (.call nnn) s = .next t → t.slot t.sp = s.pc) ∧
  State.reset.pc = 0x200

/-- The table of R39, which the spec marks derived; decisions D5, D7, D19, D29, D30 of the spec (log entries 25, 30, 18). The stored bytes start at State.base, I as a number, as the meaning's. -/
def Obligations.InstructionsWriteOnlyTheirSets : Prop :=
  ∀ (i : Instr) (s t : State), faultOf i s = none → exec i s = .next t →
    FrameBut s t (regsWritten i) (partsWritten i) ∧ WritesNarrowly i s t

/-- faultOf (Safety.lean) is the list of 60_exceptions.md section 2; decisions D12 to D14 of the spec (log entry 26). -/
def Obligations.FaultsExactlyWhereListed : Prop :=
  ∀ (i : Instr) (s : State),
    (∀ f, faultOf i s = some f → FaultsWith i s f) ∧
    (faultOf i s = none → ∃ t, exec i s = .next t ∧ Part.same .faultRecord s t ∧ t.report ≠ some .halted)

/-- No (state, input) pair is stuck; the two refusals are log entry 12. -/
def Obligations.EveryCycleHasSuccessor : Prop :=
  (∀ (i : Instr) (s : State), ∃ t, exec i s = .next t) ∧
  (∀ s : State, s.lateRom = false → (∀ rom, HostOp.loadRom rom ∉ s.nextDrive.before) → ∃ t, step s = .next t) ∧
  (∀ s : State, s.nextDrive.input = none → (∀ rom, HostOp.loadRom rom ∈ s.nextDrive.before → rom.length ≤ 3584) →
    ∃ t, step s = .next t) ∧
  ∀ (s : State) (r : Refusal), step s = .refused r →
    (∃ rom, HostOp.loadRom rom ∈ s.nextDrive.before ∧ r = .romTooLong rom.length ∧ 3584 < rom.length) ∨
    (r = .romLoadAfterFirstCycle ∧ s.nextDrive.input ≠ none ∧
      ∃ u, s.hostGap = .ok u ∧ u.lateRom = true ∧ u.status = .running)

/-- The base case of the invariants; reset values of decision D22 among them (log entry 15). The canonical forms of memory and frame buffer are the model's choice (log entries 8, 7). -/
def Obligations.InvHoldsAtReset : Prop :=
  ∀ schedule : List Drive,
    Inv { State.reset with host := schedule } ∧ FaultRecorded { State.reset with host := schedule }

/-- The inductive form of the invariants of 10_state.md section 8, which the spec marks derived. The canonical forms of memory and frame buffer in Inv are not among those: they are the model's choice (log entries 8, 7). -/
def Obligations.StepKeepsInv : Prop :=
  ∀ s t : State, Inv s → step s = .next t → Inv t

/-- 10_state.md section 8 over all reachable states; the spec marks it derived. The canonical form of memory is the model's choice (log entry 8). -/
def Obligations.ReachableStatesObeyInvariants : Prop :=
  ∀ s : State, Reachable s →
    s.sp.toNat ≤ 15 ∧ s.i.toNat ≤ 0xFFF ∧ s.pc.toNat ≤ 0x10FE ∧
    (∀ col < 64, ∀ row < 32, s.pixelAt col row = 0 ∨ s.pixelAt col row = 1) ∧
    s.slot 0 = 0 ∧ (∀ j, (s.slot j).toNat ≤ 0xFFE) ∧ Memory.wf s.mem

/-- STATUS and FAULT_CODE; decision D13 of the spec. -/
def Obligations.StepKeepsFaultRecord : Prop :=
  ∀ s t : State, FaultRecorded s → step s = .next t → FaultRecorded t

/-- Decision D27 of the spec (log entry 26). A ROM load into a halted machine waits for its reset (log entry 12). -/
def Obligations.HaltedUntilReset : Prop :=
  ∀ s t : State, s.status = .halted → HostOp.reset ∉ s.nextDrive.before → step s = .next t →
    t.status = .halted ∧ t.pc = s.pc ∧ (s.nextDrive.input ≠ none → t.report = some .halted) ∧
    FrameBut s t [] [.delayTimer, .soundTimer, .key, .dirty, .hostSide, .memory, .lateRom] ∧
    ((∀ rom, HostOp.loadRom rom ∉ s.nextDrive.before) →
      FrameBut s t [] [.delayTimer, .soundTimer, .key, .dirty, .hostSide])

/-- Decision D26 of the spec: at rest. -/
def Obligations.AtRestIsFixedPoint : Prop :=
  ∀ s : State, AtRest s → cycle s = .next (s.setReport .running)

/-! Reset and the host (60_exceptions.md section 5, 70_reset_and_hazards.md) -/

/-- The reset table of 10_state.md section 7; decisions D2, D3, D13, D20, D22 of the spec (log entries 6, 15). -/
def Obligations.ResetValues : Prop :=
  (∀ r, State.reset.reg r = 0) ∧ State.reset.i = 0 ∧ State.reset.pc = 0x200 ∧ (∀ j, State.reset.slot j = 0) ∧
  State.reset.sp = 0 ∧ State.reset.dt = 0 ∧ State.reset.st = 0 ∧ State.reset.key = 0 ∧
  (∀ col row, State.reset.pixelAt col row = 0) ∧ State.reset.dirty = false ∧ State.reset.status = .running ∧
  State.reset.faultCode = .none ∧ State.reset.faultInfo = 0 ∧ fontBytes.length = 80 ∧
  (∀ k (h : k < fontBytes.length), State.reset.byteAt (fontBase + k) = fontBytes[k]) ∧
  ∀ a, a < fontBase ∨ fontBase + 80 ≤ a → State.reset.byteAt a = 0

/-- Decisions D21, D23, D27 of the spec (log entries 13, 19); a turn without a cycle is log entry 1. -/
def Obligations.HostOperationRules : Prop :=
  ∀ s : State,
    (∃ t, s.hostOp .reset = .ok t ∧ t.pc = 0x200 ∧ t.report = none ∧ FrameBut State.reset t [] [.hostSide, .draws]) ∧
    (∃ t, s.hostOp .tick = .ok t ∧ t.dt.toNat = s.dt.toNat - 1 ∧ t.st.toNat = s.st.toNat - 1 ∧ t.pc = s.pc ∧
      t.report = s.report ∧ FrameBut s t [] [.delayTimer, .soundTimer]) ∧
    (∃ t, s.hostOp .clearDirty = .ok t ∧ t.dirty = false ∧ t.pc = s.pc ∧ t.report = s.report ∧ FrameBut s t [] [.dirty]) ∧
    (∀ ops rest t, s.host = ⟨ops, none⟩ :: rest → ({ s with host := rest } : State).hostOps ops = .ok t → step s = .next t) ∧
    ∀ rest, s.host = ⟨[.tick], none⟩ :: rest → ∃ t, step s = .next t ∧ t.dt.toNat = s.dt.toNat - 1 ∧
      t.st.toNat = s.st.toNat - 1 ∧ t.pc = s.pc ∧ t.report = s.report ∧ t.host = rest ∧
      FrameBut s t [] [.delayTimer, .soundTimer, .hostSide]

/-- Decisions D1, D33 of the spec; refusals and the note of a late load are log entry 12. -/
def Obligations.RomLoadRule : Prop :=
  ∀ (s : State) (rom : List Byte),
    (rom.length ≤ 3584 →
      (∃ t, s.hostOp (.loadRom rom) = .ok t ∧
        (∀ k (h : k < rom.length), t.byteAt (0x200 + k) = rom[k]) ∧ MemoryFrameOutside s t 0x200 rom.length ∧
        t.pc = s.pc ∧ t.report = s.report ∧ FrameBut s t [] [.memory, .lateRom] ∧
        (s.report = none → t.lateRom = s.lateRom) ∧ (s.report ≠ none → t.lateRom = true) ∧
        ∀ b0 b1 rest, rom = b0 :: b1 :: rest → s.pc = 0x200 → t.fetch = .ok (wordOfBytes b0 b1)) ∧
      s.hostOps [.loadRom rom, .reset] = s.hostOps [.reset] ∧
      ∃ t, s.hostOps [.reset, .loadRom rom] = .ok t ∧ t.pc = 0x200 ∧ t.status = .running ∧ t.lateRom = false ∧
        ∀ b0 b1 rest, rom = b0 :: b1 :: rest → t.fetch = .ok (wordOfBytes b0 b1)) ∧
    (3584 < rom.length → s.hostOp (.loadRom rom) = .error (.romTooLong rom.length)) ∧
    ∀ c rest, s.host = ⟨[], some c⟩ :: rest → s.lateRom = true → s.status = .running →
      step s = .refused .romLoadAfterFirstCycle

/-- R191 with decision D19 of the spec (log entries 1, 18); the order of operations in a turn is log entry 21. -/
def Obligations.KeyEventReachesItsCycle : Prop :=
  ∀ (s : State) (ops : List HostOp),
    s.hostOps [] = .ok s ∧
    (∀ op u, s.hostOp op = .ok u → s.hostOps (op :: ops) = u.hostOps ops) ∧
    (∀ op r, s.hostOp op = .error r → s.hostOps (op :: ops) = .error r) ∧
    ∀ (c : CycleInput) (rest : List Drive) (u : State), s.host = ⟨ops, some c⟩ :: rest →
      ({ s with host := rest } : State).hostOps ops = .ok u → (u.lateRom = false ∨ u.status = .halted) →
      ∃ t, s.hostPhase = .ok t ∧ step s = cycle t ∧ t.input = c ∧ t.host = rest ∧
        (∀ k, c.keyEvent = some k → t.key = k) ∧ (c.keyEvent = none → t.key = u.key) ∧ t.pc = u.pc ∧ t.report = u.report ∧
        FrameBut u t [] [.key, .hostSide]

/-- 70_reset_and_hazards.md section 2; log entry 1 for the empty schedule. -/
def Obligations.FirstCycleWithoutRomHalts : Prop :=
  ∃ t, step State.reset = .next t ∧ t.status = .halted ∧ t.faultCode = .unrecognizedOpcode ∧ t.faultInfo = 0 ∧
    t.pc = 0x200 ∧ t.report = some .halted
end

