-- ==== Sys2Proof/Laws/Decode.lean ====
section
/-! SUPPORT. The fields of a word written as a concatenation of its fields (R71), class by class (R72), and the bits a class mask
keeps. -/

namespace Sys2Proof

theorem toNat_concat {m n : Nat} (a : BitVec m) (b : BitVec n) : (a ++ b).toNat = a.toNat * 2 ^ n + b.toNat := by
  rw [BitVec.toNat_append, ← Nat.shiftLeft_add_eq_or_of_lt b.isLt, Nat.shiftLeft_eq]

/-- The word of two bytes, as a number: high byte first (R54). -/
theorem wordOfBytes_toNat (hi lo : Byte) : (wordOfBytes hi lo).toNat = hi.toNat * 256 + lo.toNat := toNat_concat hi lo

/-- Emitting a word and reading it back (R55, R86). -/
theorem wordOfBytes_bytesOfWord (op : Word) : wordOfBytes (op.extractLsb' 8 8) (op.extractLsb' 0 8) = op := by
  apply BitVec.eq_of_toNat_eq
  have := op.isLt
  rw [wordOfBytes_toNat]
  simp only [BitVec.extractLsb'_toNat, Nat.shiftRight_eq_div_pow]
  omega

/-! Class B: template nibble, `nnn`. -/

@[simp] theorem opTop_B (t : Nibble) (nnn : Addr12) : opTop (t ++ nnn) = t := by
  apply BitVec.eq_of_toNat_eq
  have h0 := toNat_concat t nnn
  have i0 := t.isLt
  have i1 := nnn.isLt
  simp only [opTop, BitVec.extractLsb'_toNat, Nat.shiftRight_eq_div_pow]
  rw [h0]
  omega

@[simp] theorem opNnn_B (t : Nibble) (nnn : Addr12) : opNnn (t ++ nnn) = nnn := by
  apply BitVec.eq_of_toNat_eq
  have h0 := toNat_concat t nnn
  have i0 := t.isLt
  have i1 := nnn.isLt
  simp only [opNnn, BitVec.extractLsb'_toNat, Nat.shiftRight_eq_div_pow]
  rw [h0]
  omega

/-! Classes C and E: template nibble, `x`, a byte. -/

@[simp] theorem opTop_C (t x : Nibble) (nn : Byte) : opTop (t ++ x ++ nn) = t := by
  apply BitVec.eq_of_toNat_eq
  have h0 := toNat_concat (t ++ x) nn
  have h1 := toNat_concat t x
  have i0 := t.isLt
  have i1 := x.isLt
  have i2 := nn.isLt
  simp only [opTop, BitVec.extractLsb'_toNat, Nat.shiftRight_eq_div_pow]
  rw [h0, h1]
  omega

@[simp] theorem opX_C (t x : Nibble) (nn : Byte) : opX (t ++ x ++ nn) = x := by
  apply BitVec.eq_of_toNat_eq
  have h0 := toNat_concat (t ++ x) nn
  have h1 := toNat_concat t x
  have i0 := t.isLt
  have i1 := x.isLt
  have i2 := nn.isLt
  simp only [opX, BitVec.extractLsb'_toNat, Nat.shiftRight_eq_div_pow]
  rw [h0, h1]
  omega

@[simp] theorem opNn_C (t x : Nibble) (nn : Byte) : opNn (t ++ x ++ nn) = nn := by
  apply BitVec.eq_of_toNat_eq
  have h0 := toNat_concat (t ++ x) nn
  have h1 := toNat_concat t x
  have i0 := t.isLt
  have i1 := x.isLt
  have i2 := nn.isLt
  simp only [opNn, BitVec.extractLsb'_toNat, Nat.shiftRight_eq_div_pow]
  rw [h0, h1]
  omega

/-! Classes D and F: four nibbles. -/

@[simp] theorem opTop_D (t x y n : Nibble) : opTop (t ++ x ++ y ++ n) = t := by
  apply BitVec.eq_of_toNat_eq
  have h0 := toNat_concat (t ++ x ++ y) n
  have h1 := toNat_concat (t ++ x) y
  have h2 := toNat_concat t x
  have i0 := t.isLt
  have i1 := x.isLt
  have i2 := y.isLt
  have i3 := n.isLt
  simp only [opTop, BitVec.extractLsb'_toNat, Nat.shiftRight_eq_div_pow]
  rw [h0, h1, h2]
  omega

@[simp] theorem opX_D (t x y n : Nibble) : opX (t ++ x ++ y ++ n) = x := by
  apply BitVec.eq_of_toNat_eq
  have h0 := toNat_concat (t ++ x ++ y) n
  have h1 := toNat_concat (t ++ x) y
  have h2 := toNat_concat t x
  have i0 := t.isLt
  have i1 := x.isLt
  have i2 := y.isLt
  have i3 := n.isLt
  simp only [opX, BitVec.extractLsb'_toNat, Nat.shiftRight_eq_div_pow]
  rw [h0, h1, h2]
  omega

@[simp] theorem opY_D (t x y n : Nibble) : opY (t ++ x ++ y ++ n) = y := by
  apply BitVec.eq_of_toNat_eq
  have h0 := toNat_concat (t ++ x ++ y) n
  have h1 := toNat_concat (t ++ x) y
  have h2 := toNat_concat t x
  have i0 := t.isLt
  have i1 := x.isLt
  have i2 := y.isLt
  have i3 := n.isLt
  simp only [opY, BitVec.extractLsb'_toNat, Nat.shiftRight_eq_div_pow]
  rw [h0, h1, h2]
  omega

@[simp] theorem opN_D (t x y n : Nibble) : opN (t ++ x ++ y ++ n) = n := by
  apply BitVec.eq_of_toNat_eq
  have h0 := toNat_concat (t ++ x ++ y) n
  have h1 := toNat_concat (t ++ x) y
  have h2 := toNat_concat t x
  have i0 := t.isLt
  have i1 := x.isLt
  have i2 := y.isLt
  have i3 := n.isLt
  simp only [opN, BitVec.extractLsb'_toNat, Nat.shiftRight_eq_div_pow]
  rw [h0, h1, h2]
  omega

/-! Class masks (R74, R87). -/

theorem word_mask_B (t : Nibble) (nnn : Addr12) : (t ++ nnn) &&& 0xF000#16 = t ++ 0#12 := by
  apply BitVec.eq_of_getLsbD_eq
  intro i hi
  have h : ((t ++ nnn) &&& 0xF000#16).getLsbD i = ((t ++ nnn).getLsbD i && (0xF000#16).getLsbD i) := BitVec.getLsbD_and
  rw [h]
  simp only [BitVec.getLsbD_append]
  interval_cases i <;> simp

theorem word_mask_C (t x : Nibble) (nn : Byte) : (t ++ x ++ nn) &&& 0xF000#16 = t ++ 0#12 := by
  apply BitVec.eq_of_getLsbD_eq
  intro i hi
  have h : ((t ++ x ++ nn) &&& 0xF000#16).getLsbD i = ((t ++ x ++ nn).getLsbD i && (0xF000#16).getLsbD i) := BitVec.getLsbD_and
  rw [h]
  simp only [BitVec.getLsbD_append]
  interval_cases i <;> simp

theorem word_mask_D (t x y n : Nibble) : (t ++ x ++ y ++ n) &&& 0xF00F#16 = t ++ 0#4 ++ 0#4 ++ n := by
  apply BitVec.eq_of_getLsbD_eq
  intro i hi
  have h : ((t ++ x ++ y ++ n) &&& 0xF00F#16).getLsbD i = ((t ++ x ++ y ++ n).getLsbD i && (0xF00F#16).getLsbD i) := BitVec.getLsbD_and
  rw [h]
  simp only [BitVec.getLsbD_append]
  interval_cases i <;> simp

theorem word_mask_E (t x : Nibble) (nn : Byte) : (t ++ x ++ nn) &&& 0xF0FF#16 = t ++ 0#4 ++ nn := by
  apply BitVec.eq_of_getLsbD_eq
  intro i hi
  have h : ((t ++ x ++ nn) &&& 0xF0FF#16).getLsbD i = ((t ++ x ++ nn).getLsbD i && (0xF0FF#16).getLsbD i) := BitVec.getLsbD_and
  rw [h]
  simp only [BitVec.getLsbD_append]
  interval_cases i <;> simp

theorem word_mask_F (t x y n : Nibble) : (t ++ x ++ y ++ n) &&& 0xF000#16 = t ++ 0#12 := by
  apply BitVec.eq_of_getLsbD_eq
  intro i hi
  have h : ((t ++ x ++ y ++ n) &&& 0xF000#16).getLsbD i = ((t ++ x ++ y ++ n).getLsbD i && (0xF000#16).getLsbD i) := BitVec.getLsbD_and
  rw [h]
  simp only [BitVec.getLsbD_append]
  interval_cases i <;> simp

end Sys2Proof
end

