-- ==== Sys2Proof/Laws/Assembly.lean ====
section
/-! SUPPORT. What the disassembler's listing of an image holds (30_encoding.md rules R86, R88, R92). -/

namespace Sys2Proof.Machine

/-- An instruction's two bytes give its entry. -/
@[simp] theorem listingEntries_bytesOfWord_append (address : Nat) (op : Word) (image : List Byte) :
    listingEntries address (bytesOfWord op ++ image) = ⟨address, op, disassemble op⟩ :: listingEntries (address + 2) image := by
  simp only [bytesOfWord, List.cons_append, List.nil_append, listingEntries, wordOfBytes_bytesOfWord]

/-- The listing of the words of a program: one entry each, the m-th at `address + 2m`, the unknown ones among them. -/
theorem listingEntries_words (address : Nat) (ops : List Word) :
    listingEntries address (ops.flatMap bytesOfWord) = ops.mapIdx fun m op => ⟨address + 2 * m, op, disassemble op⟩ := by
  induction ops generalizing address with
  | nil => rfl
  | cons op ops ih =>
    rw [List.flatMap_cons, listingEntries_bytesOfWord_append, ih, List.mapIdx_cons]
    simp only [Nat.mul_zero, Nat.add_zero, Nat.mul_add, Nat.mul_one, Nat.add_assoc, Nat.add_comm 2]

/-- One entry for each two bytes. -/
theorem listingEntries_length (address : Nat) : ∀ image : List Byte, (listingEntries address image).length = image.length / 2
  | [] => rfl
  | [_] => by simp [listingEntries]
  | _ :: _ :: rest => by simp only [listingEntries, List.length_cons, listingEntries_length (address + 2) rest]; omega

/-- A listing has one line for each two bytes of the image. -/
theorem listing_length (image : List Byte) : (listing image).length = image.length / 2 := by
  rw [listing, List.length_map, listingEntries_length]

/-- The line of a known word. -/
theorem listingLine_known (address : Nat) (op : Word) (src : SourceInstr) :
    listingLine ⟨address, op, some src⟩ =
      addressText address ++ [' ', ' '] ++ render src ++ [' ', ' ', ';', ' '] ++ opcodeText op := rfl

end Sys2Proof.Machine
end

