-- ==== Sys2Proof/Laws/Cells.lean ====
section
/-! SUPPORT. Sparse arrays of bytes: reading after writing, and every write keeps the canonical form. Then the same of memory
(R52, R53) and of the frame buffer (R30). -/

namespace Sys2Proof.Machine

theorem cellsRead_erase (d : Nat → Byte) (m : List Host.Cell) (a c : Nat) :
    cellsRead d (cellsErase a m) c = if c = a then d c else cellsRead d m c := by
  induction m with
  | nil => simp [cellsErase, cellsRead]
  | cons p rest ih =>
    obtain ⟨k, b⟩ := p
    by_cases hk : k = a
    · subst hk
      rw [cellsErase, if_pos rfl, ih, cellsRead]
      by_cases hc : c = k
      · simp [hc]
      · rw [if_neg hc, if_neg hc, if_neg (Ne.symm hc)]
    · rw [cellsErase, if_neg hk, cellsRead, cellsRead, ih]
      by_cases hc : k = c
      · subst hc; simp [hk]
      · rw [if_neg hc, if_neg hc]

theorem cellsErase_absent (m : List Host.Cell) (a : Nat) : ∀ c ∈ cellsErase a m, c.1 ≠ a := by
  induction m with
  | nil => simp [cellsErase]
  | cons p rest ih =>
    obtain ⟨k, b⟩ := p
    unfold cellsErase
    split
    · exact ih
    · intro c hc
      rcases List.mem_cons.mp hc with rfl | h
      · assumption
      · exact ih c h

theorem cellsErase_subset (m : List Host.Cell) (a : Nat) : ∀ c ∈ cellsErase a m, c ∈ m := by
  induction m with
  | nil => simp [cellsErase]
  | cons p rest ih =>
    obtain ⟨k, b⟩ := p
    unfold cellsErase
    split
    · exact fun c hc => List.mem_cons_of_mem _ (ih c hc)
    · intro c hc
      rcases List.mem_cons.mp hc with rfl | h
      · exact List.mem_cons_self
      · exact List.mem_cons_of_mem _ (ih c h)

theorem cellsErase_sorted (m : List Host.Cell) (a : Nat) (h : m.Pairwise (fun p q => p.1 < q.1)) :
    (cellsErase a m).Pairwise (fun p q => p.1 < q.1) := by
  induction m with
  | nil => exact List.Pairwise.nil
  | cons p rest ih =>
    obtain ⟨k, b⟩ := p
    rw [List.pairwise_cons] at h
    unfold cellsErase
    split
    · exact ih h.2
    · exact List.pairwise_cons.mpr ⟨fun c hc => h.1 c (cellsErase_subset _ _ c hc), ih h.2⟩

theorem cellsRead_insert (d : Nat → Byte) (m : List Host.Cell) (a : Nat) (b : Byte) (c : Nat) (h : ∀ p ∈ m, p.1 ≠ a) :
    cellsRead d (cellsInsert a b m) c = if c = a then b else cellsRead d m c := by
  induction m with
  | nil =>
    simp only [cellsInsert, cellsRead]
    by_cases hc : c = a
    · simp [hc]
    · rw [if_neg hc, if_neg (Ne.symm hc)]
  | cons p rest ih =>
    obtain ⟨k, e⟩ := p
    have hk : k ≠ a := h (k, e) List.mem_cons_self
    have ih' := ih (fun p hp => h p (List.mem_cons_of_mem _ hp))
    unfold cellsInsert
    split
    · simp only [cellsRead]
      by_cases hc : c = a
      · simp [hc]
      · rw [if_neg (Ne.symm hc), if_neg hc]
    · rw [cellsRead, cellsRead, ih']
      by_cases hc : k = c
      · subst hc; simp [hk]
      · rw [if_neg hc, if_neg hc]

theorem mem_cellsInsert (m : List Host.Cell) (a : Nat) (b : Byte) (c : Host.Cell) :
    c ∈ cellsInsert a b m ↔ c = (a, b) ∨ c ∈ m := by
  induction m with
  | nil => simp [cellsInsert]
  | cons p rest ih =>
    obtain ⟨k, e⟩ := p
    unfold cellsInsert
    split
    · simp
    · simp only [List.mem_cons, ih]
      tauto

theorem cellsInsert_sorted (m : List Host.Cell) (a : Nat) (b : Byte) (h : m.Pairwise (fun p q => p.1 < q.1))
    (ha : ∀ p ∈ m, p.1 ≠ a) : (cellsInsert a b m).Pairwise (fun p q => p.1 < q.1) := by
  induction m with
  | nil => simp [cellsInsert]
  | cons p rest ih =>
    obtain ⟨k, e⟩ := p
    have hk : k ≠ a := ha (k, e) List.mem_cons_self
    have hs := List.pairwise_cons.mp h
    unfold cellsInsert
    split
    · rename_i hlt
      refine List.pairwise_cons.mpr ⟨fun c hc => ?_, h⟩
      rcases List.mem_cons.mp hc with rfl | hc
      · exact hlt
      · exact Nat.lt_trans hlt (hs.1 c hc)
    · rename_i hge
      refine List.pairwise_cons.mpr ⟨fun c hc => ?_, ih hs.2 fun p hp => ha p (List.mem_cons_of_mem _ hp)⟩
      rcases (mem_cellsInsert rest a b c).mp hc with rfl | hc
      · change k < a
        omega
      · exact hs.1 c hc

/-- Reading after writing: the byte written at its address, the old byte everywhere else, in any list. -/
theorem cellsRead_write (d : Nat → Byte) (m : List Host.Cell) (a : Nat) (b : Byte) (c : Nat) :
    cellsRead d (cellsWrite d m a b) c = if c = a then b else cellsRead d m c := by
  unfold cellsWrite
  split
  · rename_i h
    rw [cellsRead_erase]
    by_cases hc : c = a
    · simp [hc, h]
    · simp [hc]
  · rw [cellsRead_insert d _ a b c (cellsErase_absent m a), cellsRead_erase]
    by_cases hc : c = a
    · simp [hc]
    · simp [hc]

/-- Every entry after a write is the one written or an old one. -/
theorem mem_cellsWrite (d : Nat → Byte) (m : List Host.Cell) (a : Nat) (b : Byte) (c : Host.Cell)
    (h : c ∈ cellsWrite d m a b) : (c = (a, b) ∧ b ≠ d a) ∨ c ∈ m := by
  unfold cellsWrite at h
  split at h
  · exact Or.inr (cellsErase_subset m a c h)
  · rcases (mem_cellsInsert _ a b c).mp h with rfl | h
    · exact Or.inl ⟨rfl, by assumption⟩
    · exact Or.inr (cellsErase_subset m a c h)

/-- A write to an address of the array keeps the canonical form. -/
theorem cellsWf_write (d : Nat → Byte) (size : Nat) (m : List Host.Cell) (a : Nat) (b : Byte) (hm : cellsWf d size m)
    (ha : a < size) : cellsWf d size (cellsWrite d m a b) := by
  constructor
  · unfold cellsWrite
    split
    · exact cellsErase_sorted m a hm.1
    · exact cellsInsert_sorted _ a b (cellsErase_sorted m a hm.1) (cellsErase_absent m a)
  · intro c hc
    rcases mem_cellsWrite d m a b c hc with ⟨rfl, hb⟩ | hc
    · exact ⟨ha, hb⟩
    · exact hm.2 c hc

/-! Memory. -/

@[simp] theorem readByte_writeByte (m : List Host.Cell) (a : Nat) (b : Byte) (c : Nat) :
    readByte (writeByte m a b) c = if c = a then b else readByte m c :=
  cellsRead_write unlistedByte m a b c

theorem memory_wf_writeByte (m : List Host.Cell) (a : Nat) (b : Byte) (hm : Memory.wf m) (ha : a < Config.memSize) :
    Memory.wf (writeByte m a b) :=
  cellsWf_write unlistedByte Config.memSize m a b hm ha

theorem memory_wf_writeBytes (bytes : List Byte) (m : List Host.Cell) (base : Nat) (hm : Memory.wf m)
    (hb : base + bytes.length ≤ Config.memSize) : Memory.wf (writeBytes m base bytes) := by
  induction bytes generalizing m base with
  | nil => exact hm
  | cons b bs ih =>
    rw [List.length_cons] at hb
    exact ih _ _ (memory_wf_writeByte m base b hm (by omega)) (by omega)

/-- A byte after a block has been stored: the block's byte inside it, the old byte outside. -/
theorem readByte_writeBytes (bytes : List Byte) (m : List Host.Cell) (base a : Nat) :
    readByte (writeBytes m base bytes) a =
      if base ≤ a ∧ a < base + bytes.length then bytes.getD (a - base) 0 else readByte m a := by
  induction bytes generalizing m base with
  | nil =>
    have : ¬ (base ≤ a ∧ a < base + ([] : List Byte).length) := by simp
    rw [if_neg this]
    rfl
  | cons b bs ih =>
    rw [writeBytes, ih, readByte_writeByte, List.length_cons]
    by_cases h1 : a = base
    · simp [h1]
    · by_cases h2 : base + 1 ≤ a ∧ a < base + 1 + bs.length
      · have h3 : a - base = (a - (base + 1)) + 1 := by omega
        rw [if_pos h2, if_pos (by omega), h3, List.getD_cons_succ]
      · rw [if_neg h2, if_neg h1, if_neg (by omega)]

@[simp] theorem readBytes_length (m : List Host.Cell) (base n : Nat) : (readBytes m base n).length = n := by
  induction n generalizing base with
  | zero => rfl
  | succ n ih => simp [readBytes, ih]

theorem readBytes_getD (m : List Host.Cell) (base n k : Nat) (h : k < n) :
    (readBytes m base n).getD k 0 = readByte m (base + k) := by
  induction n generalizing base k with
  | zero => omega
  | succ n ih =>
    cases k with
    | zero => rfl
    | succ k =>
      rw [readBytes, List.getD_cons_succ, ih (base + 1) k (by omega), Nat.add_right_comm, Nat.add_assoc]

/-! Frame buffer. -/

/-- Two pixels of the screen are the same cell only if they are the same pixel (R30). -/
theorem cellIndex_inj (c r c' r' : Nat) (hc : c < Config.fbWidth) (hc' : c' < Config.fbWidth) :
    cellIndex c r = cellIndex c' r' ↔ c = c' ∧ r = r' := by
  simp only [cellIndex, Config.fbWidth] at *
  omega

theorem pixel_setPixel (fb : List Host.Cell) (col row : Nat) (b : Byte) (c r : Nat) :
    pixel (setPixel fb col row b) c r = if cellIndex c r = cellIndex col row then b else pixel fb c r :=
  cellsRead_write (fun _ => 0) fb (cellIndex col row) b (cellIndex c r)

/-- In a frame buffer in canonical form every cell holds 0 or 1 (R30). -/
theorem pixel_zero_or_one (fb : List Host.Cell) (h : ∀ c ∈ fb, c.2 = 1) (col row : Nat) :
    pixel fb col row = 0 ∨ pixel fb col row = 1 := by
  unfold pixel
  induction fb with
  | nil => exact Or.inl rfl
  | cons p rest ih =>
    obtain ⟨k, b⟩ := p
    rw [cellsRead]
    split
    · exact Or.inr (h (k, b) List.mem_cons_self)
    · exact ih fun c hc => h c (List.mem_cons_of_mem _ hc)

/-- Flipping a cell of the screen keeps the frame buffer's canonical form. -/
theorem frameBuffer_wf_flip (fb : List Host.Cell) (col row : Nat) (h : FrameBuffer.wf fb) (hc : col < Config.fbWidth)
    (hr : row < Config.fbHeight) : FrameBuffer.wf (setPixel fb col row (pixel fb col row ^^^ 1)) := by
  constructor
  · refine cellsWf_write _ _ fb _ _ h.1 ?_
    simp only [cellIndex, Config.fbWidth, Config.fbHeight] at *
    omega
  · intro c hmem
    rcases mem_cellsWrite _ fb _ _ c hmem with ⟨rfl, hne⟩ | hmem
    · rcases pixel_zero_or_one fb h.2 col row with h0 | h1
      · simp only [h0]; decide
      · exact absurd (by rw [h1]; decide) hne
    · exact h.2 c hmem

end Sys2Proof.Machine
end

