-- ==== Sys2Proof/Laws/State.lean ====
section
/-! SUPPORT. What each named update of the state does to each field: one lemma per field per update, each true by rfl; then the
registers, stack slots, memory bytes and pixels seen through their accessors. -/

namespace Sys2Proof.Machine

/-! setReg -/

@[simp] theorem State.setReg_i (s : State) (x : Nibble) (b : Byte) : (s.setReg x b).i = s.i := rfl
@[simp] theorem State.setReg_pc (s : State) (x : Nibble) (b : Byte) : (s.setReg x b).pc = s.pc := rfl
@[simp] theorem State.setReg_stack (s : State) (x : Nibble) (b : Byte) : (s.setReg x b).stack = s.stack := rfl
@[simp] theorem State.setReg_sp (s : State) (x : Nibble) (b : Byte) : (s.setReg x b).sp = s.sp := rfl
@[simp] theorem State.setReg_dt (s : State) (x : Nibble) (b : Byte) : (s.setReg x b).dt = s.dt := rfl
@[simp] theorem State.setReg_st (s : State) (x : Nibble) (b : Byte) : (s.setReg x b).st = s.st := rfl
@[simp] theorem State.setReg_key (s : State) (x : Nibble) (b : Byte) : (s.setReg x b).key = s.key := rfl
@[simp] theorem State.setReg_fb (s : State) (x : Nibble) (b : Byte) : (s.setReg x b).fb = s.fb := rfl
@[simp] theorem State.setReg_dirty (s : State) (x : Nibble) (b : Byte) : (s.setReg x b).dirty = s.dirty := rfl
@[simp] theorem State.setReg_status (s : State) (x : Nibble) (b : Byte) : (s.setReg x b).status = s.status := rfl
@[simp] theorem State.setReg_faultCode (s : State) (x : Nibble) (b : Byte) : (s.setReg x b).faultCode = s.faultCode := rfl
@[simp] theorem State.setReg_faultInfo (s : State) (x : Nibble) (b : Byte) : (s.setReg x b).faultInfo = s.faultInfo := rfl
@[simp] theorem State.setReg_mem (s : State) (x : Nibble) (b : Byte) : (s.setReg x b).mem = s.mem := rfl
@[simp] theorem State.setReg_report (s : State) (x : Nibble) (b : Byte) : (s.setReg x b).report = s.report := rfl
@[simp] theorem State.setReg_input (s : State) (x : Nibble) (b : Byte) : (s.setReg x b).input = s.input := rfl
@[simp] theorem State.setReg_host (s : State) (x : Nibble) (b : Byte) : (s.setReg x b).host = s.host := rfl
@[simp] theorem State.setReg_draws (s : State) (x : Nibble) (b : Byte) : (s.setReg x b).draws = s.draws := rfl
@[simp] theorem State.setReg_lateRom (s : State) (x : Nibble) (b : Byte) : (s.setReg x b).lateRom = s.lateRom := rfl
@[simp] theorem State.setReg_slot (s : State) (x : Nibble) (b : Byte) (q : BitVec 4) : (s.setReg x b).slot q = s.slot q := rfl
@[simp] theorem State.setReg_byteAt (s : State) (x : Nibble) (b : Byte) (a : Nat) : (s.setReg x b).byteAt a = s.byteAt a := rfl
@[simp] theorem State.setReg_pixelAt (s : State) (x : Nibble) (b : Byte) (col row : Nat) : (s.setReg x b).pixelAt col row = s.pixelAt col row := rfl

/-! setI -/

@[simp] theorem State.setI_v (s : State) (w : Word) : (s.setI w).v = s.v := rfl
@[simp] theorem State.setI_i (s : State) (w : Word) : (s.setI w).i = w := rfl
@[simp] theorem State.setI_pc (s : State) (w : Word) : (s.setI w).pc = s.pc := rfl
@[simp] theorem State.setI_stack (s : State) (w : Word) : (s.setI w).stack = s.stack := rfl
@[simp] theorem State.setI_sp (s : State) (w : Word) : (s.setI w).sp = s.sp := rfl
@[simp] theorem State.setI_dt (s : State) (w : Word) : (s.setI w).dt = s.dt := rfl
@[simp] theorem State.setI_st (s : State) (w : Word) : (s.setI w).st = s.st := rfl
@[simp] theorem State.setI_key (s : State) (w : Word) : (s.setI w).key = s.key := rfl
@[simp] theorem State.setI_fb (s : State) (w : Word) : (s.setI w).fb = s.fb := rfl
@[simp] theorem State.setI_dirty (s : State) (w : Word) : (s.setI w).dirty = s.dirty := rfl
@[simp] theorem State.setI_status (s : State) (w : Word) : (s.setI w).status = s.status := rfl
@[simp] theorem State.setI_faultCode (s : State) (w : Word) : (s.setI w).faultCode = s.faultCode := rfl
@[simp] theorem State.setI_faultInfo (s : State) (w : Word) : (s.setI w).faultInfo = s.faultInfo := rfl
@[simp] theorem State.setI_mem (s : State) (w : Word) : (s.setI w).mem = s.mem := rfl
@[simp] theorem State.setI_report (s : State) (w : Word) : (s.setI w).report = s.report := rfl
@[simp] theorem State.setI_input (s : State) (w : Word) : (s.setI w).input = s.input := rfl
@[simp] theorem State.setI_host (s : State) (w : Word) : (s.setI w).host = s.host := rfl
@[simp] theorem State.setI_draws (s : State) (w : Word) : (s.setI w).draws = s.draws := rfl
@[simp] theorem State.setI_lateRom (s : State) (w : Word) : (s.setI w).lateRom = s.lateRom := rfl
@[simp] theorem State.setI_reg (s : State) (w : Word) (r : Nibble) : (s.setI w).reg r = s.reg r := rfl
@[simp] theorem State.setI_slot (s : State) (w : Word) (q : BitVec 4) : (s.setI w).slot q = s.slot q := rfl
@[simp] theorem State.setI_byteAt (s : State) (w : Word) (a : Nat) : (s.setI w).byteAt a = s.byteAt a := rfl
@[simp] theorem State.setI_pixelAt (s : State) (w : Word) (col row : Nat) : (s.setI w).pixelAt col row = s.pixelAt col row := rfl

/-! setPc -/

@[simp] theorem State.setPc_v (s : State) (w : Word) : (s.setPc w).v = s.v := rfl
@[simp] theorem State.setPc_i (s : State) (w : Word) : (s.setPc w).i = s.i := rfl
@[simp] theorem State.setPc_pc (s : State) (w : Word) : (s.setPc w).pc = w := rfl
@[simp] theorem State.setPc_stack (s : State) (w : Word) : (s.setPc w).stack = s.stack := rfl
@[simp] theorem State.setPc_sp (s : State) (w : Word) : (s.setPc w).sp = s.sp := rfl
@[simp] theorem State.setPc_dt (s : State) (w : Word) : (s.setPc w).dt = s.dt := rfl
@[simp] theorem State.setPc_st (s : State) (w : Word) : (s.setPc w).st = s.st := rfl
@[simp] theorem State.setPc_key (s : State) (w : Word) : (s.setPc w).key = s.key := rfl
@[simp] theorem State.setPc_fb (s : State) (w : Word) : (s.setPc w).fb = s.fb := rfl
@[simp] theorem State.setPc_dirty (s : State) (w : Word) : (s.setPc w).dirty = s.dirty := rfl
@[simp] theorem State.setPc_status (s : State) (w : Word) : (s.setPc w).status = s.status := rfl
@[simp] theorem State.setPc_faultCode (s : State) (w : Word) : (s.setPc w).faultCode = s.faultCode := rfl
@[simp] theorem State.setPc_faultInfo (s : State) (w : Word) : (s.setPc w).faultInfo = s.faultInfo := rfl
@[simp] theorem State.setPc_mem (s : State) (w : Word) : (s.setPc w).mem = s.mem := rfl
@[simp] theorem State.setPc_report (s : State) (w : Word) : (s.setPc w).report = s.report := rfl
@[simp] theorem State.setPc_input (s : State) (w : Word) : (s.setPc w).input = s.input := rfl
@[simp] theorem State.setPc_host (s : State) (w : Word) : (s.setPc w).host = s.host := rfl
@[simp] theorem State.setPc_draws (s : State) (w : Word) : (s.setPc w).draws = s.draws := rfl
@[simp] theorem State.setPc_lateRom (s : State) (w : Word) : (s.setPc w).lateRom = s.lateRom := rfl
@[simp] theorem State.setPc_reg (s : State) (w : Word) (r : Nibble) : (s.setPc w).reg r = s.reg r := rfl
@[simp] theorem State.setPc_slot (s : State) (w : Word) (q : BitVec 4) : (s.setPc w).slot q = s.slot q := rfl
@[simp] theorem State.setPc_byteAt (s : State) (w : Word) (a : Nat) : (s.setPc w).byteAt a = s.byteAt a := rfl
@[simp] theorem State.setPc_pixelAt (s : State) (w : Word) (col row : Nat) : (s.setPc w).pixelAt col row = s.pixelAt col row := rfl

/-! setDt -/

@[simp] theorem State.setDt_v (s : State) (b : Byte) : (s.setDt b).v = s.v := rfl
@[simp] theorem State.setDt_i (s : State) (b : Byte) : (s.setDt b).i = s.i := rfl
@[simp] theorem State.setDt_pc (s : State) (b : Byte) : (s.setDt b).pc = s.pc := rfl
@[simp] theorem State.setDt_stack (s : State) (b : Byte) : (s.setDt b).stack = s.stack := rfl
@[simp] theorem State.setDt_sp (s : State) (b : Byte) : (s.setDt b).sp = s.sp := rfl
@[simp] theorem State.setDt_dt (s : State) (b : Byte) : (s.setDt b).dt = b := rfl
@[simp] theorem State.setDt_st (s : State) (b : Byte) : (s.setDt b).st = s.st := rfl
@[simp] theorem State.setDt_key (s : State) (b : Byte) : (s.setDt b).key = s.key := rfl
@[simp] theorem State.setDt_fb (s : State) (b : Byte) : (s.setDt b).fb = s.fb := rfl
@[simp] theorem State.setDt_dirty (s : State) (b : Byte) : (s.setDt b).dirty = s.dirty := rfl
@[simp] theorem State.setDt_status (s : State) (b : Byte) : (s.setDt b).status = s.status := rfl
@[simp] theorem State.setDt_faultCode (s : State) (b : Byte) : (s.setDt b).faultCode = s.faultCode := rfl
@[simp] theorem State.setDt_faultInfo (s : State) (b : Byte) : (s.setDt b).faultInfo = s.faultInfo := rfl
@[simp] theorem State.setDt_mem (s : State) (b : Byte) : (s.setDt b).mem = s.mem := rfl
@[simp] theorem State.setDt_report (s : State) (b : Byte) : (s.setDt b).report = s.report := rfl
@[simp] theorem State.setDt_input (s : State) (b : Byte) : (s.setDt b).input = s.input := rfl
@[simp] theorem State.setDt_host (s : State) (b : Byte) : (s.setDt b).host = s.host := rfl
@[simp] theorem State.setDt_draws (s : State) (b : Byte) : (s.setDt b).draws = s.draws := rfl
@[simp] theorem State.setDt_lateRom (s : State) (b : Byte) : (s.setDt b).lateRom = s.lateRom := rfl
@[simp] theorem State.setDt_reg (s : State) (b : Byte) (r : Nibble) : (s.setDt b).reg r = s.reg r := rfl
@[simp] theorem State.setDt_slot (s : State) (b : Byte) (q : BitVec 4) : (s.setDt b).slot q = s.slot q := rfl
@[simp] theorem State.setDt_byteAt (s : State) (b : Byte) (a : Nat) : (s.setDt b).byteAt a = s.byteAt a := rfl
@[simp] theorem State.setDt_pixelAt (s : State) (b : Byte) (col row : Nat) : (s.setDt b).pixelAt col row = s.pixelAt col row := rfl

/-! setSt -/

@[simp] theorem State.setSt_v (s : State) (b : Byte) : (s.setSt b).v = s.v := rfl
@[simp] theorem State.setSt_i (s : State) (b : Byte) : (s.setSt b).i = s.i := rfl
@[simp] theorem State.setSt_pc (s : State) (b : Byte) : (s.setSt b).pc = s.pc := rfl
@[simp] theorem State.setSt_stack (s : State) (b : Byte) : (s.setSt b).stack = s.stack := rfl
@[simp] theorem State.setSt_sp (s : State) (b : Byte) : (s.setSt b).sp = s.sp := rfl
@[simp] theorem State.setSt_dt (s : State) (b : Byte) : (s.setSt b).dt = s.dt := rfl
@[simp] theorem State.setSt_st (s : State) (b : Byte) : (s.setSt b).st = b := rfl
@[simp] theorem State.setSt_key (s : State) (b : Byte) : (s.setSt b).key = s.key := rfl
@[simp] theorem State.setSt_fb (s : State) (b : Byte) : (s.setSt b).fb = s.fb := rfl
@[simp] theorem State.setSt_dirty (s : State) (b : Byte) : (s.setSt b).dirty = s.dirty := rfl
@[simp] theorem State.setSt_status (s : State) (b : Byte) : (s.setSt b).status = s.status := rfl
@[simp] theorem State.setSt_faultCode (s : State) (b : Byte) : (s.setSt b).faultCode = s.faultCode := rfl
@[simp] theorem State.setSt_faultInfo (s : State) (b : Byte) : (s.setSt b).faultInfo = s.faultInfo := rfl
@[simp] theorem State.setSt_mem (s : State) (b : Byte) : (s.setSt b).mem = s.mem := rfl
@[simp] theorem State.setSt_report (s : State) (b : Byte) : (s.setSt b).report = s.report := rfl
@[simp] theorem State.setSt_input (s : State) (b : Byte) : (s.setSt b).input = s.input := rfl
@[simp] theorem State.setSt_host (s : State) (b : Byte) : (s.setSt b).host = s.host := rfl
@[simp] theorem State.setSt_draws (s : State) (b : Byte) : (s.setSt b).draws = s.draws := rfl
@[simp] theorem State.setSt_lateRom (s : State) (b : Byte) : (s.setSt b).lateRom = s.lateRom := rfl
@[simp] theorem State.setSt_reg (s : State) (b : Byte) (r : Nibble) : (s.setSt b).reg r = s.reg r := rfl
@[simp] theorem State.setSt_slot (s : State) (b : Byte) (q : BitVec 4) : (s.setSt b).slot q = s.slot q := rfl
@[simp] theorem State.setSt_byteAt (s : State) (b : Byte) (a : Nat) : (s.setSt b).byteAt a = s.byteAt a := rfl
@[simp] theorem State.setSt_pixelAt (s : State) (b : Byte) (col row : Nat) : (s.setSt b).pixelAt col row = s.pixelAt col row := rfl

/-! setKey -/

@[simp] theorem State.setKey_v (s : State) (b : Byte) : (s.setKey b).v = s.v := rfl
@[simp] theorem State.setKey_i (s : State) (b : Byte) : (s.setKey b).i = s.i := rfl
@[simp] theorem State.setKey_pc (s : State) (b : Byte) : (s.setKey b).pc = s.pc := rfl
@[simp] theorem State.setKey_stack (s : State) (b : Byte) : (s.setKey b).stack = s.stack := rfl
@[simp] theorem State.setKey_sp (s : State) (b : Byte) : (s.setKey b).sp = s.sp := rfl
@[simp] theorem State.setKey_dt (s : State) (b : Byte) : (s.setKey b).dt = s.dt := rfl
@[simp] theorem State.setKey_st (s : State) (b : Byte) : (s.setKey b).st = s.st := rfl
@[simp] theorem State.setKey_key (s : State) (b : Byte) : (s.setKey b).key = b := rfl
@[simp] theorem State.setKey_fb (s : State) (b : Byte) : (s.setKey b).fb = s.fb := rfl
@[simp] theorem State.setKey_dirty (s : State) (b : Byte) : (s.setKey b).dirty = s.dirty := rfl
@[simp] theorem State.setKey_status (s : State) (b : Byte) : (s.setKey b).status = s.status := rfl
@[simp] theorem State.setKey_faultCode (s : State) (b : Byte) : (s.setKey b).faultCode = s.faultCode := rfl
@[simp] theorem State.setKey_faultInfo (s : State) (b : Byte) : (s.setKey b).faultInfo = s.faultInfo := rfl
@[simp] theorem State.setKey_mem (s : State) (b : Byte) : (s.setKey b).mem = s.mem := rfl
@[simp] theorem State.setKey_report (s : State) (b : Byte) : (s.setKey b).report = s.report := rfl
@[simp] theorem State.setKey_input (s : State) (b : Byte) : (s.setKey b).input = s.input := rfl
@[simp] theorem State.setKey_host (s : State) (b : Byte) : (s.setKey b).host = s.host := rfl
@[simp] theorem State.setKey_draws (s : State) (b : Byte) : (s.setKey b).draws = s.draws := rfl
@[simp] theorem State.setKey_lateRom (s : State) (b : Byte) : (s.setKey b).lateRom = s.lateRom := rfl
@[simp] theorem State.setKey_reg (s : State) (b : Byte) (r : Nibble) : (s.setKey b).reg r = s.reg r := rfl
@[simp] theorem State.setKey_slot (s : State) (b : Byte) (q : BitVec 4) : (s.setKey b).slot q = s.slot q := rfl
@[simp] theorem State.setKey_byteAt (s : State) (b : Byte) (a : Nat) : (s.setKey b).byteAt a = s.byteAt a := rfl
@[simp] theorem State.setKey_pixelAt (s : State) (b : Byte) (col row : Nat) : (s.setKey b).pixelAt col row = s.pixelAt col row := rfl

/-! setSp -/

@[simp] theorem State.setSp_v (s : State) (j : BitVec 4) : (s.setSp j).v = s.v := rfl
@[simp] theorem State.setSp_i (s : State) (j : BitVec 4) : (s.setSp j).i = s.i := rfl
@[simp] theorem State.setSp_pc (s : State) (j : BitVec 4) : (s.setSp j).pc = s.pc := rfl
@[simp] theorem State.setSp_stack (s : State) (j : BitVec 4) : (s.setSp j).stack = s.stack := rfl
@[simp] theorem State.setSp_sp (s : State) (j : BitVec 4) : (s.setSp j).sp = j := rfl
@[simp] theorem State.setSp_dt (s : State) (j : BitVec 4) : (s.setSp j).dt = s.dt := rfl
@[simp] theorem State.setSp_st (s : State) (j : BitVec 4) : (s.setSp j).st = s.st := rfl
@[simp] theorem State.setSp_key (s : State) (j : BitVec 4) : (s.setSp j).key = s.key := rfl
@[simp] theorem State.setSp_fb (s : State) (j : BitVec 4) : (s.setSp j).fb = s.fb := rfl
@[simp] theorem State.setSp_dirty (s : State) (j : BitVec 4) : (s.setSp j).dirty = s.dirty := rfl
@[simp] theorem State.setSp_status (s : State) (j : BitVec 4) : (s.setSp j).status = s.status := rfl
@[simp] theorem State.setSp_faultCode (s : State) (j : BitVec 4) : (s.setSp j).faultCode = s.faultCode := rfl
@[simp] theorem State.setSp_faultInfo (s : State) (j : BitVec 4) : (s.setSp j).faultInfo = s.faultInfo := rfl
@[simp] theorem State.setSp_mem (s : State) (j : BitVec 4) : (s.setSp j).mem = s.mem := rfl
@[simp] theorem State.setSp_report (s : State) (j : BitVec 4) : (s.setSp j).report = s.report := rfl
@[simp] theorem State.setSp_input (s : State) (j : BitVec 4) : (s.setSp j).input = s.input := rfl
@[simp] theorem State.setSp_host (s : State) (j : BitVec 4) : (s.setSp j).host = s.host := rfl
@[simp] theorem State.setSp_draws (s : State) (j : BitVec 4) : (s.setSp j).draws = s.draws := rfl
@[simp] theorem State.setSp_lateRom (s : State) (j : BitVec 4) : (s.setSp j).lateRom = s.lateRom := rfl
@[simp] theorem State.setSp_reg (s : State) (j : BitVec 4) (r : Nibble) : (s.setSp j).reg r = s.reg r := rfl
@[simp] theorem State.setSp_slot (s : State) (j : BitVec 4) (q : BitVec 4) : (s.setSp j).slot q = s.slot q := rfl
@[simp] theorem State.setSp_byteAt (s : State) (j : BitVec 4) (a : Nat) : (s.setSp j).byteAt a = s.byteAt a := rfl
@[simp] theorem State.setSp_pixelAt (s : State) (j : BitVec 4) (col row : Nat) : (s.setSp j).pixelAt col row = s.pixelAt col row := rfl

/-! setSlot -/

@[simp] theorem State.setSlot_v (s : State) (j : BitVec 4) (w : Word) : (s.setSlot j w).v = s.v := rfl
@[simp] theorem State.setSlot_i (s : State) (j : BitVec 4) (w : Word) : (s.setSlot j w).i = s.i := rfl
@[simp] theorem State.setSlot_pc (s : State) (j : BitVec 4) (w : Word) : (s.setSlot j w).pc = s.pc := rfl
@[simp] theorem State.setSlot_sp (s : State) (j : BitVec 4) (w : Word) : (s.setSlot j w).sp = s.sp := rfl
@[simp] theorem State.setSlot_dt (s : State) (j : BitVec 4) (w : Word) : (s.setSlot j w).dt = s.dt := rfl
@[simp] theorem State.setSlot_st (s : State) (j : BitVec 4) (w : Word) : (s.setSlot j w).st = s.st := rfl
@[simp] theorem State.setSlot_key (s : State) (j : BitVec 4) (w : Word) : (s.setSlot j w).key = s.key := rfl
@[simp] theorem State.setSlot_fb (s : State) (j : BitVec 4) (w : Word) : (s.setSlot j w).fb = s.fb := rfl
@[simp] theorem State.setSlot_dirty (s : State) (j : BitVec 4) (w : Word) : (s.setSlot j w).dirty = s.dirty := rfl
@[simp] theorem State.setSlot_status (s : State) (j : BitVec 4) (w : Word) : (s.setSlot j w).status = s.status := rfl
@[simp] theorem State.setSlot_faultCode (s : State) (j : BitVec 4) (w : Word) : (s.setSlot j w).faultCode = s.faultCode := rfl
@[simp] theorem State.setSlot_faultInfo (s : State) (j : BitVec 4) (w : Word) : (s.setSlot j w).faultInfo = s.faultInfo := rfl
@[simp] theorem State.setSlot_mem (s : State) (j : BitVec 4) (w : Word) : (s.setSlot j w).mem = s.mem := rfl
@[simp] theorem State.setSlot_report (s : State) (j : BitVec 4) (w : Word) : (s.setSlot j w).report = s.report := rfl
@[simp] theorem State.setSlot_input (s : State) (j : BitVec 4) (w : Word) : (s.setSlot j w).input = s.input := rfl
@[simp] theorem State.setSlot_host (s : State) (j : BitVec 4) (w : Word) : (s.setSlot j w).host = s.host := rfl
@[simp] theorem State.setSlot_draws (s : State) (j : BitVec 4) (w : Word) : (s.setSlot j w).draws = s.draws := rfl
@[simp] theorem State.setSlot_lateRom (s : State) (j : BitVec 4) (w : Word) : (s.setSlot j w).lateRom = s.lateRom := rfl
@[simp] theorem State.setSlot_reg (s : State) (j : BitVec 4) (w : Word) (r : Nibble) : (s.setSlot j w).reg r = s.reg r := rfl
@[simp] theorem State.setSlot_byteAt (s : State) (j : BitVec 4) (w : Word) (a : Nat) : (s.setSlot j w).byteAt a = s.byteAt a := rfl
@[simp] theorem State.setSlot_pixelAt (s : State) (j : BitVec 4) (w : Word) (col row : Nat) : (s.setSlot j w).pixelAt col row = s.pixelAt col row := rfl

/-! setFb -/

@[simp] theorem State.setFb_v (s : State) (m : List Host.Cell) : (s.setFb m).v = s.v := rfl
@[simp] theorem State.setFb_i (s : State) (m : List Host.Cell) : (s.setFb m).i = s.i := rfl
@[simp] theorem State.setFb_pc (s : State) (m : List Host.Cell) : (s.setFb m).pc = s.pc := rfl
@[simp] theorem State.setFb_stack (s : State) (m : List Host.Cell) : (s.setFb m).stack = s.stack := rfl
@[simp] theorem State.setFb_sp (s : State) (m : List Host.Cell) : (s.setFb m).sp = s.sp := rfl
@[simp] theorem State.setFb_dt (s : State) (m : List Host.Cell) : (s.setFb m).dt = s.dt := rfl
@[simp] theorem State.setFb_st (s : State) (m : List Host.Cell) : (s.setFb m).st = s.st := rfl
@[simp] theorem State.setFb_key (s : State) (m : List Host.Cell) : (s.setFb m).key = s.key := rfl
@[simp] theorem State.setFb_fb (s : State) (m : List Host.Cell) : (s.setFb m).fb = m := rfl
@[simp] theorem State.setFb_dirty (s : State) (m : List Host.Cell) : (s.setFb m).dirty = s.dirty := rfl
@[simp] theorem State.setFb_status (s : State) (m : List Host.Cell) : (s.setFb m).status = s.status := rfl
@[simp] theorem State.setFb_faultCode (s : State) (m : List Host.Cell) : (s.setFb m).faultCode = s.faultCode := rfl
@[simp] theorem State.setFb_faultInfo (s : State) (m : List Host.Cell) : (s.setFb m).faultInfo = s.faultInfo := rfl
@[simp] theorem State.setFb_mem (s : State) (m : List Host.Cell) : (s.setFb m).mem = s.mem := rfl
@[simp] theorem State.setFb_report (s : State) (m : List Host.Cell) : (s.setFb m).report = s.report := rfl
@[simp] theorem State.setFb_input (s : State) (m : List Host.Cell) : (s.setFb m).input = s.input := rfl
@[simp] theorem State.setFb_host (s : State) (m : List Host.Cell) : (s.setFb m).host = s.host := rfl
@[simp] theorem State.setFb_draws (s : State) (m : List Host.Cell) : (s.setFb m).draws = s.draws := rfl
@[simp] theorem State.setFb_lateRom (s : State) (m : List Host.Cell) : (s.setFb m).lateRom = s.lateRom := rfl
@[simp] theorem State.setFb_reg (s : State) (m : List Host.Cell) (r : Nibble) : (s.setFb m).reg r = s.reg r := rfl
@[simp] theorem State.setFb_slot (s : State) (m : List Host.Cell) (q : BitVec 4) : (s.setFb m).slot q = s.slot q := rfl
@[simp] theorem State.setFb_byteAt (s : State) (m : List Host.Cell) (a : Nat) : (s.setFb m).byteAt a = s.byteAt a := rfl

/-! setDirty -/

@[simp] theorem State.setDirty_v (s : State) (b : Bool) : (s.setDirty b).v = s.v := rfl
@[simp] theorem State.setDirty_i (s : State) (b : Bool) : (s.setDirty b).i = s.i := rfl
@[simp] theorem State.setDirty_pc (s : State) (b : Bool) : (s.setDirty b).pc = s.pc := rfl
@[simp] theorem State.setDirty_stack (s : State) (b : Bool) : (s.setDirty b).stack = s.stack := rfl
@[simp] theorem State.setDirty_sp (s : State) (b : Bool) : (s.setDirty b).sp = s.sp := rfl
@[simp] theorem State.setDirty_dt (s : State) (b : Bool) : (s.setDirty b).dt = s.dt := rfl
@[simp] theorem State.setDirty_st (s : State) (b : Bool) : (s.setDirty b).st = s.st := rfl
@[simp] theorem State.setDirty_key (s : State) (b : Bool) : (s.setDirty b).key = s.key := rfl
@[simp] theorem State.setDirty_fb (s : State) (b : Bool) : (s.setDirty b).fb = s.fb := rfl
@[simp] theorem State.setDirty_dirty (s : State) (b : Bool) : (s.setDirty b).dirty = b := rfl
@[simp] theorem State.setDirty_status (s : State) (b : Bool) : (s.setDirty b).status = s.status := rfl
@[simp] theorem State.setDirty_faultCode (s : State) (b : Bool) : (s.setDirty b).faultCode = s.faultCode := rfl
@[simp] theorem State.setDirty_faultInfo (s : State) (b : Bool) : (s.setDirty b).faultInfo = s.faultInfo := rfl
@[simp] theorem State.setDirty_mem (s : State) (b : Bool) : (s.setDirty b).mem = s.mem := rfl
@[simp] theorem State.setDirty_report (s : State) (b : Bool) : (s.setDirty b).report = s.report := rfl
@[simp] theorem State.setDirty_input (s : State) (b : Bool) : (s.setDirty b).input = s.input := rfl
@[simp] theorem State.setDirty_host (s : State) (b : Bool) : (s.setDirty b).host = s.host := rfl
@[simp] theorem State.setDirty_draws (s : State) (b : Bool) : (s.setDirty b).draws = s.draws := rfl
@[simp] theorem State.setDirty_lateRom (s : State) (b : Bool) : (s.setDirty b).lateRom = s.lateRom := rfl
@[simp] theorem State.setDirty_reg (s : State) (b : Bool) (r : Nibble) : (s.setDirty b).reg r = s.reg r := rfl
@[simp] theorem State.setDirty_slot (s : State) (b : Bool) (q : BitVec 4) : (s.setDirty b).slot q = s.slot q := rfl
@[simp] theorem State.setDirty_byteAt (s : State) (b : Bool) (a : Nat) : (s.setDirty b).byteAt a = s.byteAt a := rfl
@[simp] theorem State.setDirty_pixelAt (s : State) (b : Bool) (col row : Nat) : (s.setDirty b).pixelAt col row = s.pixelAt col row := rfl

/-! setLateRom -/

@[simp] theorem State.setLateRom_v (s : State) (b : Bool) : (s.setLateRom b).v = s.v := rfl
@[simp] theorem State.setLateRom_i (s : State) (b : Bool) : (s.setLateRom b).i = s.i := rfl
@[simp] theorem State.setLateRom_pc (s : State) (b : Bool) : (s.setLateRom b).pc = s.pc := rfl
@[simp] theorem State.setLateRom_stack (s : State) (b : Bool) : (s.setLateRom b).stack = s.stack := rfl
@[simp] theorem State.setLateRom_sp (s : State) (b : Bool) : (s.setLateRom b).sp = s.sp := rfl
@[simp] theorem State.setLateRom_dt (s : State) (b : Bool) : (s.setLateRom b).dt = s.dt := rfl
@[simp] theorem State.setLateRom_st (s : State) (b : Bool) : (s.setLateRom b).st = s.st := rfl
@[simp] theorem State.setLateRom_key (s : State) (b : Bool) : (s.setLateRom b).key = s.key := rfl
@[simp] theorem State.setLateRom_fb (s : State) (b : Bool) : (s.setLateRom b).fb = s.fb := rfl
@[simp] theorem State.setLateRom_dirty (s : State) (b : Bool) : (s.setLateRom b).dirty = s.dirty := rfl
@[simp] theorem State.setLateRom_status (s : State) (b : Bool) : (s.setLateRom b).status = s.status := rfl
@[simp] theorem State.setLateRom_faultCode (s : State) (b : Bool) : (s.setLateRom b).faultCode = s.faultCode := rfl
@[simp] theorem State.setLateRom_faultInfo (s : State) (b : Bool) : (s.setLateRom b).faultInfo = s.faultInfo := rfl
@[simp] theorem State.setLateRom_mem (s : State) (b : Bool) : (s.setLateRom b).mem = s.mem := rfl
@[simp] theorem State.setLateRom_report (s : State) (b : Bool) : (s.setLateRom b).report = s.report := rfl
@[simp] theorem State.setLateRom_input (s : State) (b : Bool) : (s.setLateRom b).input = s.input := rfl
@[simp] theorem State.setLateRom_host (s : State) (b : Bool) : (s.setLateRom b).host = s.host := rfl
@[simp] theorem State.setLateRom_draws (s : State) (b : Bool) : (s.setLateRom b).draws = s.draws := rfl
@[simp] theorem State.setLateRom_lateRom (s : State) (b : Bool) : (s.setLateRom b).lateRom = b := rfl
@[simp] theorem State.setLateRom_reg (s : State) (b : Bool) (r : Nibble) : (s.setLateRom b).reg r = s.reg r := rfl
@[simp] theorem State.setLateRom_slot (s : State) (b : Bool) (q : BitVec 4) : (s.setLateRom b).slot q = s.slot q := rfl
@[simp] theorem State.setLateRom_byteAt (s : State) (b : Bool) (a : Nat) : (s.setLateRom b).byteAt a = s.byteAt a := rfl
@[simp] theorem State.setLateRom_pixelAt (s : State) (b : Bool) (col row : Nat) : (s.setLateRom b).pixelAt col row = s.pixelAt col row := rfl

/-! setMem -/

@[simp] theorem State.setMem_v (s : State) (m : List Host.Cell) : (s.setMem m).v = s.v := rfl
@[simp] theorem State.setMem_i (s : State) (m : List Host.Cell) : (s.setMem m).i = s.i := rfl
@[simp] theorem State.setMem_pc (s : State) (m : List Host.Cell) : (s.setMem m).pc = s.pc := rfl
@[simp] theorem State.setMem_stack (s : State) (m : List Host.Cell) : (s.setMem m).stack = s.stack := rfl
@[simp] theorem State.setMem_sp (s : State) (m : List Host.Cell) : (s.setMem m).sp = s.sp := rfl
@[simp] theorem State.setMem_dt (s : State) (m : List Host.Cell) : (s.setMem m).dt = s.dt := rfl
@[simp] theorem State.setMem_st (s : State) (m : List Host.Cell) : (s.setMem m).st = s.st := rfl
@[simp] theorem State.setMem_key (s : State) (m : List Host.Cell) : (s.setMem m).key = s.key := rfl
@[simp] theorem State.setMem_fb (s : State) (m : List Host.Cell) : (s.setMem m).fb = s.fb := rfl
@[simp] theorem State.setMem_dirty (s : State) (m : List Host.Cell) : (s.setMem m).dirty = s.dirty := rfl
@[simp] theorem State.setMem_status (s : State) (m : List Host.Cell) : (s.setMem m).status = s.status := rfl
@[simp] theorem State.setMem_faultCode (s : State) (m : List Host.Cell) : (s.setMem m).faultCode = s.faultCode := rfl
@[simp] theorem State.setMem_faultInfo (s : State) (m : List Host.Cell) : (s.setMem m).faultInfo = s.faultInfo := rfl
@[simp] theorem State.setMem_mem (s : State) (m : List Host.Cell) : (s.setMem m).mem = m := rfl
@[simp] theorem State.setMem_report (s : State) (m : List Host.Cell) : (s.setMem m).report = s.report := rfl
@[simp] theorem State.setMem_input (s : State) (m : List Host.Cell) : (s.setMem m).input = s.input := rfl
@[simp] theorem State.setMem_host (s : State) (m : List Host.Cell) : (s.setMem m).host = s.host := rfl
@[simp] theorem State.setMem_draws (s : State) (m : List Host.Cell) : (s.setMem m).draws = s.draws := rfl
@[simp] theorem State.setMem_lateRom (s : State) (m : List Host.Cell) : (s.setMem m).lateRom = s.lateRom := rfl
@[simp] theorem State.setMem_reg (s : State) (m : List Host.Cell) (r : Nibble) : (s.setMem m).reg r = s.reg r := rfl
@[simp] theorem State.setMem_slot (s : State) (m : List Host.Cell) (q : BitVec 4) : (s.setMem m).slot q = s.slot q := rfl
@[simp] theorem State.setMem_pixelAt (s : State) (m : List Host.Cell) (col row : Nat) : (s.setMem m).pixelAt col row = s.pixelAt col row := rfl

/-! setReport -/

@[simp] theorem State.setReport_v (s : State) (r : Report) : (s.setReport r).v = s.v := rfl
@[simp] theorem State.setReport_i (s : State) (r : Report) : (s.setReport r).i = s.i := rfl
@[simp] theorem State.setReport_pc (s : State) (r : Report) : (s.setReport r).pc = s.pc := rfl
@[simp] theorem State.setReport_stack (s : State) (r : Report) : (s.setReport r).stack = s.stack := rfl
@[simp] theorem State.setReport_sp (s : State) (r : Report) : (s.setReport r).sp = s.sp := rfl
@[simp] theorem State.setReport_dt (s : State) (r : Report) : (s.setReport r).dt = s.dt := rfl
@[simp] theorem State.setReport_st (s : State) (r : Report) : (s.setReport r).st = s.st := rfl
@[simp] theorem State.setReport_key (s : State) (r : Report) : (s.setReport r).key = s.key := rfl
@[simp] theorem State.setReport_fb (s : State) (r : Report) : (s.setReport r).fb = s.fb := rfl
@[simp] theorem State.setReport_dirty (s : State) (r : Report) : (s.setReport r).dirty = s.dirty := rfl
@[simp] theorem State.setReport_status (s : State) (r : Report) : (s.setReport r).status = s.status := rfl
@[simp] theorem State.setReport_faultCode (s : State) (r : Report) : (s.setReport r).faultCode = s.faultCode := rfl
@[simp] theorem State.setReport_faultInfo (s : State) (r : Report) : (s.setReport r).faultInfo = s.faultInfo := rfl
@[simp] theorem State.setReport_mem (s : State) (r : Report) : (s.setReport r).mem = s.mem := rfl
@[simp] theorem State.setReport_report (s : State) (r : Report) : (s.setReport r).report = some r := rfl
@[simp] theorem State.setReport_input (s : State) (r : Report) : (s.setReport r).input = s.input := rfl
@[simp] theorem State.setReport_host (s : State) (r : Report) : (s.setReport r).host = s.host := rfl
@[simp] theorem State.setReport_draws (s : State) (r : Report) : (s.setReport r).draws = s.draws := rfl
@[simp] theorem State.setReport_lateRom (s : State) (r : Report) : (s.setReport r).lateRom = s.lateRom := rfl
@[simp] theorem State.setReport_reg (s : State) (p : Report) (r : Nibble) : (s.setReport p).reg r = s.reg r := rfl
@[simp] theorem State.setReport_slot (s : State) (r : Report) (q : BitVec 4) : (s.setReport r).slot q = s.slot q := rfl
@[simp] theorem State.setReport_byteAt (s : State) (r : Report) (a : Nat) : (s.setReport r).byteAt a = s.byteAt a := rfl
@[simp] theorem State.setReport_pixelAt (s : State) (r : Report) (col row : Nat) : (s.setReport r).pixelAt col row = s.pixelAt col row := rfl

/-! countDraw -/

@[simp] theorem State.countDraw_v (s : State) : s.countDraw.v = s.v := rfl
@[simp] theorem State.countDraw_i (s : State) : s.countDraw.i = s.i := rfl
@[simp] theorem State.countDraw_pc (s : State) : s.countDraw.pc = s.pc := rfl
@[simp] theorem State.countDraw_stack (s : State) : s.countDraw.stack = s.stack := rfl
@[simp] theorem State.countDraw_sp (s : State) : s.countDraw.sp = s.sp := rfl
@[simp] theorem State.countDraw_dt (s : State) : s.countDraw.dt = s.dt := rfl
@[simp] theorem State.countDraw_st (s : State) : s.countDraw.st = s.st := rfl
@[simp] theorem State.countDraw_key (s : State) : s.countDraw.key = s.key := rfl
@[simp] theorem State.countDraw_fb (s : State) : s.countDraw.fb = s.fb := rfl
@[simp] theorem State.countDraw_dirty (s : State) : s.countDraw.dirty = s.dirty := rfl
@[simp] theorem State.countDraw_status (s : State) : s.countDraw.status = s.status := rfl
@[simp] theorem State.countDraw_faultCode (s : State) : s.countDraw.faultCode = s.faultCode := rfl
@[simp] theorem State.countDraw_faultInfo (s : State) : s.countDraw.faultInfo = s.faultInfo := rfl
@[simp] theorem State.countDraw_mem (s : State) : s.countDraw.mem = s.mem := rfl
@[simp] theorem State.countDraw_report (s : State) : s.countDraw.report = s.report := rfl
@[simp] theorem State.countDraw_input (s : State) : s.countDraw.input = s.input := rfl
@[simp] theorem State.countDraw_host (s : State) : s.countDraw.host = s.host := rfl
@[simp] theorem State.countDraw_draws (s : State) : s.countDraw.draws = s.draws + 1 := rfl
@[simp] theorem State.countDraw_lateRom (s : State) : s.countDraw.lateRom = s.lateRom := rfl
@[simp] theorem State.countDraw_reg (s : State) (r : Nibble) : s.countDraw.reg r = s.reg r := rfl
@[simp] theorem State.countDraw_slot (s : State) (q : BitVec 4) : s.countDraw.slot q = s.slot q := rfl
@[simp] theorem State.countDraw_byteAt (s : State) (a : Nat) : s.countDraw.byteAt a = s.byteAt a := rfl
@[simp] theorem State.countDraw_pixelAt (s : State) (col row : Nat) : s.countDraw.pixelAt col row = s.pixelAt col row := rfl

/-! nextInsn -/

@[simp] theorem State.nextInsn_v (s : State) : s.nextInsn.v = s.v := rfl
@[simp] theorem State.nextInsn_i (s : State) : s.nextInsn.i = s.i := rfl
@[simp] theorem State.nextInsn_pc (s : State) : s.nextInsn.pc = s.pc + 2 := rfl
@[simp] theorem State.nextInsn_stack (s : State) : s.nextInsn.stack = s.stack := rfl
@[simp] theorem State.nextInsn_sp (s : State) : s.nextInsn.sp = s.sp := rfl
@[simp] theorem State.nextInsn_dt (s : State) : s.nextInsn.dt = s.dt := rfl
@[simp] theorem State.nextInsn_st (s : State) : s.nextInsn.st = s.st := rfl
@[simp] theorem State.nextInsn_key (s : State) : s.nextInsn.key = s.key := rfl
@[simp] theorem State.nextInsn_fb (s : State) : s.nextInsn.fb = s.fb := rfl
@[simp] theorem State.nextInsn_dirty (s : State) : s.nextInsn.dirty = s.dirty := rfl
@[simp] theorem State.nextInsn_status (s : State) : s.nextInsn.status = s.status := rfl
@[simp] theorem State.nextInsn_faultCode (s : State) : s.nextInsn.faultCode = s.faultCode := rfl
@[simp] theorem State.nextInsn_faultInfo (s : State) : s.nextInsn.faultInfo = s.faultInfo := rfl
@[simp] theorem State.nextInsn_mem (s : State) : s.nextInsn.mem = s.mem := rfl
@[simp] theorem State.nextInsn_report (s : State) : s.nextInsn.report = s.report := rfl
@[simp] theorem State.nextInsn_input (s : State) : s.nextInsn.input = s.input := rfl
@[simp] theorem State.nextInsn_host (s : State) : s.nextInsn.host = s.host := rfl
@[simp] theorem State.nextInsn_draws (s : State) : s.nextInsn.draws = s.draws := rfl
@[simp] theorem State.nextInsn_lateRom (s : State) : s.nextInsn.lateRom = s.lateRom := rfl
@[simp] theorem State.nextInsn_reg (s : State) (r : Nibble) : s.nextInsn.reg r = s.reg r := rfl
@[simp] theorem State.nextInsn_slot (s : State) (q : BitVec 4) : s.nextInsn.slot q = s.slot q := rfl
@[simp] theorem State.nextInsn_byteAt (s : State) (a : Nat) : s.nextInsn.byteAt a = s.byteAt a := rfl
@[simp] theorem State.nextInsn_pixelAt (s : State) (col row : Nat) : s.nextInsn.pixelAt col row = s.pixelAt col row := rfl

/-! advance -/

@[simp] theorem State.advance_v (s : State) (k : Word) : (s.advance k).v = s.v := rfl
@[simp] theorem State.advance_i (s : State) (k : Word) : (s.advance k).i = s.i := rfl
@[simp] theorem State.advance_pc (s : State) (k : Word) : (s.advance k).pc = s.pc + k := rfl
@[simp] theorem State.advance_stack (s : State) (k : Word) : (s.advance k).stack = s.stack := rfl
@[simp] theorem State.advance_sp (s : State) (k : Word) : (s.advance k).sp = s.sp := rfl
@[simp] theorem State.advance_dt (s : State) (k : Word) : (s.advance k).dt = s.dt := rfl
@[simp] theorem State.advance_st (s : State) (k : Word) : (s.advance k).st = s.st := rfl
@[simp] theorem State.advance_key (s : State) (k : Word) : (s.advance k).key = s.key := rfl
@[simp] theorem State.advance_fb (s : State) (k : Word) : (s.advance k).fb = s.fb := rfl
@[simp] theorem State.advance_dirty (s : State) (k : Word) : (s.advance k).dirty = s.dirty := rfl
@[simp] theorem State.advance_status (s : State) (k : Word) : (s.advance k).status = s.status := rfl
@[simp] theorem State.advance_faultCode (s : State) (k : Word) : (s.advance k).faultCode = s.faultCode := rfl
@[simp] theorem State.advance_faultInfo (s : State) (k : Word) : (s.advance k).faultInfo = s.faultInfo := rfl
@[simp] theorem State.advance_mem (s : State) (k : Word) : (s.advance k).mem = s.mem := rfl
@[simp] theorem State.advance_report (s : State) (k : Word) : (s.advance k).report = s.report := rfl
@[simp] theorem State.advance_input (s : State) (k : Word) : (s.advance k).input = s.input := rfl
@[simp] theorem State.advance_host (s : State) (k : Word) : (s.advance k).host = s.host := rfl
@[simp] theorem State.advance_draws (s : State) (k : Word) : (s.advance k).draws = s.draws := rfl
@[simp] theorem State.advance_lateRom (s : State) (k : Word) : (s.advance k).lateRom = s.lateRom := rfl
@[simp] theorem State.advance_reg (s : State) (k : Word) (r : Nibble) : (s.advance k).reg r = s.reg r := rfl
@[simp] theorem State.advance_slot (s : State) (k : Word) (q : BitVec 4) : (s.advance k).slot q = s.slot q := rfl
@[simp] theorem State.advance_byteAt (s : State) (k : Word) (a : Nat) : (s.advance k).byteAt a = s.byteAt a := rfl
@[simp] theorem State.advance_pixelAt (s : State) (k : Word) (col row : Nat) : (s.advance k).pixelAt col row = s.pixelAt col row := rfl

/-! raise -/

@[simp] theorem State.raise_v (s : State) (f : MachineFault) : (s.raise f).v = s.v := rfl
@[simp] theorem State.raise_i (s : State) (f : MachineFault) : (s.raise f).i = s.i := rfl
@[simp] theorem State.raise_pc (s : State) (f : MachineFault) : (s.raise f).pc = s.pc := rfl
@[simp] theorem State.raise_stack (s : State) (f : MachineFault) : (s.raise f).stack = s.stack := rfl
@[simp] theorem State.raise_sp (s : State) (f : MachineFault) : (s.raise f).sp = s.sp := rfl
@[simp] theorem State.raise_dt (s : State) (f : MachineFault) : (s.raise f).dt = s.dt := rfl
@[simp] theorem State.raise_st (s : State) (f : MachineFault) : (s.raise f).st = s.st := rfl
@[simp] theorem State.raise_key (s : State) (f : MachineFault) : (s.raise f).key = s.key := rfl
@[simp] theorem State.raise_fb (s : State) (f : MachineFault) : (s.raise f).fb = s.fb := rfl
@[simp] theorem State.raise_dirty (s : State) (f : MachineFault) : (s.raise f).dirty = s.dirty := rfl
@[simp] theorem State.raise_status (s : State) (f : MachineFault) : (s.raise f).status = .halted := rfl
@[simp] theorem State.raise_faultCode (s : State) (f : MachineFault) : (s.raise f).faultCode = f.code := rfl
@[simp] theorem State.raise_faultInfo (s : State) (f : MachineFault) : (s.raise f).faultInfo = f.info := rfl
@[simp] theorem State.raise_mem (s : State) (f : MachineFault) : (s.raise f).mem = s.mem := rfl
@[simp] theorem State.raise_report (s : State) (f : MachineFault) : (s.raise f).report = some .halted := rfl
@[simp] theorem State.raise_input (s : State) (f : MachineFault) : (s.raise f).input = s.input := rfl
@[simp] theorem State.raise_host (s : State) (f : MachineFault) : (s.raise f).host = s.host := rfl
@[simp] theorem State.raise_draws (s : State) (f : MachineFault) : (s.raise f).draws = s.draws := rfl
@[simp] theorem State.raise_lateRom (s : State) (f : MachineFault) : (s.raise f).lateRom = s.lateRom := rfl
@[simp] theorem State.raise_reg (s : State) (f : MachineFault) (r : Nibble) : (s.raise f).reg r = s.reg r := rfl
@[simp] theorem State.raise_slot (s : State) (f : MachineFault) (q : BitVec 4) : (s.raise f).slot q = s.slot q := rfl
@[simp] theorem State.raise_byteAt (s : State) (f : MachineFault) (a : Nat) : (s.raise f).byteAt a = s.byteAt a := rfl
@[simp] theorem State.raise_pixelAt (s : State) (f : MachineFault) (col row : Nat) : (s.raise f).pixelAt col row = s.pixelAt col row := rfl

/-! setFlag -/

@[simp] theorem State.setFlag_i (s : State) (b : Bool) : (s.setFlag b).i = s.i := rfl
@[simp] theorem State.setFlag_pc (s : State) (b : Bool) : (s.setFlag b).pc = s.pc := rfl
@[simp] theorem State.setFlag_stack (s : State) (b : Bool) : (s.setFlag b).stack = s.stack := rfl
@[simp] theorem State.setFlag_sp (s : State) (b : Bool) : (s.setFlag b).sp = s.sp := rfl
@[simp] theorem State.setFlag_dt (s : State) (b : Bool) : (s.setFlag b).dt = s.dt := rfl
@[simp] theorem State.setFlag_st (s : State) (b : Bool) : (s.setFlag b).st = s.st := rfl
@[simp] theorem State.setFlag_key (s : State) (b : Bool) : (s.setFlag b).key = s.key := rfl
@[simp] theorem State.setFlag_fb (s : State) (b : Bool) : (s.setFlag b).fb = s.fb := rfl
@[simp] theorem State.setFlag_dirty (s : State) (b : Bool) : (s.setFlag b).dirty = s.dirty := rfl
@[simp] theorem State.setFlag_status (s : State) (b : Bool) : (s.setFlag b).status = s.status := rfl
@[simp] theorem State.setFlag_faultCode (s : State) (b : Bool) : (s.setFlag b).faultCode = s.faultCode := rfl
@[simp] theorem State.setFlag_faultInfo (s : State) (b : Bool) : (s.setFlag b).faultInfo = s.faultInfo := rfl
@[simp] theorem State.setFlag_mem (s : State) (b : Bool) : (s.setFlag b).mem = s.mem := rfl
@[simp] theorem State.setFlag_report (s : State) (b : Bool) : (s.setFlag b).report = s.report := rfl
@[simp] theorem State.setFlag_input (s : State) (b : Bool) : (s.setFlag b).input = s.input := rfl
@[simp] theorem State.setFlag_host (s : State) (b : Bool) : (s.setFlag b).host = s.host := rfl
@[simp] theorem State.setFlag_draws (s : State) (b : Bool) : (s.setFlag b).draws = s.draws := rfl
@[simp] theorem State.setFlag_lateRom (s : State) (b : Bool) : (s.setFlag b).lateRom = s.lateRom := rfl
@[simp] theorem State.setFlag_slot (s : State) (b : Bool) (q : BitVec 4) : (s.setFlag b).slot q = s.slot q := rfl
@[simp] theorem State.setFlag_byteAt (s : State) (b : Bool) (a : Nat) : (s.setFlag b).byteAt a = s.byteAt a := rfl
@[simp] theorem State.setFlag_pixelAt (s : State) (b : Bool) (col row : Nat) : (s.setFlag b).pixelAt col row = s.pixelAt col row := rfl

/-! present -/

@[simp] theorem State.present_v (s : State) (c : CycleInput) : (s.present c).v = s.v := rfl
@[simp] theorem State.present_i (s : State) (c : CycleInput) : (s.present c).i = s.i := rfl
@[simp] theorem State.present_pc (s : State) (c : CycleInput) : (s.present c).pc = s.pc := rfl
@[simp] theorem State.present_stack (s : State) (c : CycleInput) : (s.present c).stack = s.stack := rfl
@[simp] theorem State.present_sp (s : State) (c : CycleInput) : (s.present c).sp = s.sp := rfl
@[simp] theorem State.present_dt (s : State) (c : CycleInput) : (s.present c).dt = s.dt := rfl
@[simp] theorem State.present_st (s : State) (c : CycleInput) : (s.present c).st = s.st := rfl
@[simp] theorem State.present_key (s : State) (c : CycleInput) : (s.present c).key = c.keyEvent.getD s.key := rfl
@[simp] theorem State.present_fb (s : State) (c : CycleInput) : (s.present c).fb = s.fb := rfl
@[simp] theorem State.present_dirty (s : State) (c : CycleInput) : (s.present c).dirty = s.dirty := rfl
@[simp] theorem State.present_status (s : State) (c : CycleInput) : (s.present c).status = s.status := rfl
@[simp] theorem State.present_faultCode (s : State) (c : CycleInput) : (s.present c).faultCode = s.faultCode := rfl
@[simp] theorem State.present_faultInfo (s : State) (c : CycleInput) : (s.present c).faultInfo = s.faultInfo := rfl
@[simp] theorem State.present_mem (s : State) (c : CycleInput) : (s.present c).mem = s.mem := rfl
@[simp] theorem State.present_report (s : State) (c : CycleInput) : (s.present c).report = s.report := rfl
@[simp] theorem State.present_input (s : State) (c : CycleInput) : (s.present c).input = c := rfl
@[simp] theorem State.present_host (s : State) (c : CycleInput) : (s.present c).host = s.host := rfl
@[simp] theorem State.present_draws (s : State) (c : CycleInput) : (s.present c).draws = s.draws := rfl
@[simp] theorem State.present_lateRom (s : State) (c : CycleInput) : (s.present c).lateRom = s.lateRom := rfl
@[simp] theorem State.present_reg (s : State) (c : CycleInput) (r : Nibble) : (s.present c).reg r = s.reg r := rfl
@[simp] theorem State.present_slot (s : State) (c : CycleInput) (q : BitVec 4) : (s.present c).slot q = s.slot q := rfl
@[simp] theorem State.present_byteAt (s : State) (c : CycleInput) (a : Nat) : (s.present c).byteAt a = s.byteAt a := rfl
@[simp] theorem State.present_pixelAt (s : State) (c : CycleInput) (col row : Nat) : (s.present c).pixelAt col row = s.pixelAt col row := rfl

/-! tick -/

@[simp] theorem State.tick_v (s : State) : s.tick.v = s.v := rfl
@[simp] theorem State.tick_i (s : State) : s.tick.i = s.i := rfl
@[simp] theorem State.tick_pc (s : State) : s.tick.pc = s.pc := rfl
@[simp] theorem State.tick_stack (s : State) : s.tick.stack = s.stack := rfl
@[simp] theorem State.tick_sp (s : State) : s.tick.sp = s.sp := rfl
@[simp] theorem State.tick_dt (s : State) : s.tick.dt = ticked s.dt := rfl
@[simp] theorem State.tick_st (s : State) : s.tick.st = ticked s.st := rfl
@[simp] theorem State.tick_key (s : State) : s.tick.key = s.key := rfl
@[simp] theorem State.tick_fb (s : State) : s.tick.fb = s.fb := rfl
@[simp] theorem State.tick_dirty (s : State) : s.tick.dirty = s.dirty := rfl
@[simp] theorem State.tick_status (s : State) : s.tick.status = s.status := rfl
@[simp] theorem State.tick_faultCode (s : State) : s.tick.faultCode = s.faultCode := rfl
@[simp] theorem State.tick_faultInfo (s : State) : s.tick.faultInfo = s.faultInfo := rfl
@[simp] theorem State.tick_mem (s : State) : s.tick.mem = s.mem := rfl
@[simp] theorem State.tick_report (s : State) : s.tick.report = s.report := rfl
@[simp] theorem State.tick_input (s : State) : s.tick.input = s.input := rfl
@[simp] theorem State.tick_host (s : State) : s.tick.host = s.host := rfl
@[simp] theorem State.tick_draws (s : State) : s.tick.draws = s.draws := rfl
@[simp] theorem State.tick_lateRom (s : State) : s.tick.lateRom = s.lateRom := rfl
@[simp] theorem State.tick_reg (s : State) (r : Nibble) : s.tick.reg r = s.reg r := rfl
@[simp] theorem State.tick_slot (s : State) (q : BitVec 4) : s.tick.slot q = s.slot q := rfl
@[simp] theorem State.tick_byteAt (s : State) (a : Nat) : s.tick.byteAt a = s.byteAt a := rfl
@[simp] theorem State.tick_pixelAt (s : State) (col row : Nat) : s.tick.pixelAt col row = s.pixelAt col row := rfl

/-! clearDirty -/

@[simp] theorem State.clearDirty_v (s : State) : s.clearDirty.v = s.v := rfl
@[simp] theorem State.clearDirty_i (s : State) : s.clearDirty.i = s.i := rfl
@[simp] theorem State.clearDirty_pc (s : State) : s.clearDirty.pc = s.pc := rfl
@[simp] theorem State.clearDirty_stack (s : State) : s.clearDirty.stack = s.stack := rfl
@[simp] theorem State.clearDirty_sp (s : State) : s.clearDirty.sp = s.sp := rfl
@[simp] theorem State.clearDirty_dt (s : State) : s.clearDirty.dt = s.dt := rfl
@[simp] theorem State.clearDirty_st (s : State) : s.clearDirty.st = s.st := rfl
@[simp] theorem State.clearDirty_key (s : State) : s.clearDirty.key = s.key := rfl
@[simp] theorem State.clearDirty_fb (s : State) : s.clearDirty.fb = s.fb := rfl
@[simp] theorem State.clearDirty_dirty (s : State) : s.clearDirty.dirty = false := rfl
@[simp] theorem State.clearDirty_status (s : State) : s.clearDirty.status = s.status := rfl
@[simp] theorem State.clearDirty_faultCode (s : State) : s.clearDirty.faultCode = s.faultCode := rfl
@[simp] theorem State.clearDirty_faultInfo (s : State) : s.clearDirty.faultInfo = s.faultInfo := rfl
@[simp] theorem State.clearDirty_mem (s : State) : s.clearDirty.mem = s.mem := rfl
@[simp] theorem State.clearDirty_report (s : State) : s.clearDirty.report = s.report := rfl
@[simp] theorem State.clearDirty_input (s : State) : s.clearDirty.input = s.input := rfl
@[simp] theorem State.clearDirty_host (s : State) : s.clearDirty.host = s.host := rfl
@[simp] theorem State.clearDirty_draws (s : State) : s.clearDirty.draws = s.draws := rfl
@[simp] theorem State.clearDirty_lateRom (s : State) : s.clearDirty.lateRom = s.lateRom := rfl
@[simp] theorem State.clearDirty_reg (s : State) (r : Nibble) : s.clearDirty.reg r = s.reg r := rfl
@[simp] theorem State.clearDirty_slot (s : State) (q : BitVec 4) : s.clearDirty.slot q = s.slot q := rfl
@[simp] theorem State.clearDirty_byteAt (s : State) (a : Nat) : s.clearDirty.byteAt a = s.byteAt a := rfl
@[simp] theorem State.clearDirty_pixelAt (s : State) (col row : Nat) : s.clearDirty.pixelAt col row = s.pixelAt col row := rfl

/-! Registers and stack slots through their accessors. -/

@[simp] theorem State.setReg_reg (s : State) (x : Nibble) (b : Byte) (r : Nibble) :
    (s.setReg x b).reg r = if r = x then b else s.reg r := by
  simp only [State.reg, State.setReg, Vector.getElem_set, BitVec.toNat_inj, eq_comm]

@[simp] theorem State.setFlag_reg (s : State) (b : Bool) (r : Nibble) :
    (s.setFlag b).reg r = if r = 15 then flagByte b else s.reg r := by
  simp only [State.setFlag, State.setReg_reg, flagReg]

@[simp] theorem State.setSlot_slot (s : State) (j : BitVec 4) (w : Word) (q : BitVec 4) :
    (s.setSlot j w).slot q = if q = j then w else s.slot q := by
  simp only [State.slot, State.setSlot, Vector.getElem_set, BitVec.toNat_inj, eq_comm]

@[simp] theorem State.setMem_byteAt (s : State) (m : List Host.Cell) (a : Nat) :
    (s.setMem m).byteAt a = readByte m a := rfl

@[simp] theorem State.setFb_pixelAt (s : State) (m : List Host.Cell) (col row : Nat) :
    (s.setFb m).pixelAt col row = pixel m col row := rfl

/-- A skip changes `PC` only, by 4 or by 2 (R107). -/
theorem State.skipIf_eq (s : State) (c : Bool) : s.skipIf c = s.setPc (if c = true then s.pc + 4 else s.pc + 2) := by
  cases c <;> rfl

/-! A block of registers loaded (POP). -/

/-- Register `r` after loading a block from register `k` on: the byte of its place in the block, or its old value. -/
theorem State.setRegsFrom_reg (bytes : List Byte) (s : State) (k : Nat) (r : Nibble) (h : k + bytes.length ≤ 16) :
    (s.setRegsFrom k bytes).reg r =
      if k ≤ r.toNat ∧ r.toNat < k + bytes.length then bytes.getD (r.toNat - k) 0 else s.reg r := by
  induction bytes generalizing s k with
  | nil =>
    have : ¬ (k ≤ r.toNat ∧ r.toNat < k + ([] : List Byte).length) := by simp
    rw [if_neg this]
    rfl
  | cons b bs ih =>
    simp only [List.length_cons] at h ⊢
    have hk : r = BitVec.ofNat 4 k ↔ r.toNat = k := by
      rw [← BitVec.toNat_inj, BitVec.toNat_ofNat, Nat.mod_eq_of_lt (by omega)]
    rw [State.setRegsFrom, ih _ _ (by omega), State.setReg_reg]
    by_cases h1 : r.toNat = k
    · rw [if_neg (by omega), if_pos (hk.mpr h1), if_pos (by omega), h1, Nat.sub_self]
      rfl
    · by_cases h2 : k + 1 ≤ r.toNat ∧ r.toNat < k + 1 + bs.length
      · have h3 : r.toNat - k = (r.toNat - (k + 1)) + 1 := by omega
        rw [if_pos h2, if_pos (by omega), h3, List.getD_cons_succ]
      · rw [if_neg h2, if_neg (mt hk.mp h1), if_neg (by omega)]

/-- Loading a block of registers changes registers only. -/
theorem State.setRegsFrom_eq (bytes : List Byte) (s : State) (k : Nat) :
    s.setRegsFrom k bytes = { s with v := (s.setRegsFrom k bytes).v } := by
  induction bytes generalizing s k with
  | nil => rfl
  | cons b bs ih =>
    rw [State.setRegsFrom, ih]
    rfl

end Sys2Proof.Machine
end

