-- ==== Sys2Proof/Laws/Ops.lean ====
section
/-! SUPPORT. One lemma for each shared operation that says once everything it can do: range check, checked reads and writes of a
block, fetch, the end of an instruction, the loops of PUSH, POP and DRAW, the host's moves. -/

namespace Sys2Proof.Machine

/-! Range check and checked blocks (R144). -/

/-- A block of at least one byte is refused exactly when its last address is above 4095; the fault names the lowest address that is
not valid. -/
theorem rangeFault_cases (base m : Nat) :
    ((m = 0 ∨ base + m ≤ 4096) ∧ rangeFault base m = none) ∨
      (m ≠ 0 ∧ 4096 < base + m ∧ rangeFault base m = some (outOfRange (if base < 4096 then 4096 else base))) := by
  unfold rangeFault
  simp only [Config.memSize]
  by_cases h : m = 0 ∨ base + m ≤ 4096
  · exact Or.inl ⟨h, if_pos h⟩
  · exact Or.inr ⟨by omega, by omega, if_neg h⟩

theorem rangeFault_none (base m : Nat) (h : m = 0 ∨ base + m ≤ 4096) : rangeFault base m = none := by
  rcases rangeFault_cases base m with h' | h'
  · exact h'.2
  · omega

theorem rangeFault_some (base m : Nat) (h0 : m ≠ 0) (h : 4096 < base + m) :
    rangeFault base m = some (outOfRange (if base < 4096 then 4096 else base)) := by
  rcases rangeFault_cases base m with h' | h'
  · omega
  · exact h'.2.2

theorem loadBlock_ok (s : State) (base m : Nat) (h : m = 0 ∨ base + m ≤ 4096) :
    s.loadBlock base m = .ok (readBytes s.mem base m) := by
  rw [State.loadBlock, rangeFault_none base m h]

theorem loadBlock_error (s : State) (base m : Nat) (h0 : m ≠ 0) (h : 4096 < base + m) :
    s.loadBlock base m = .error (outOfRange (if base < 4096 then 4096 else base)) := by
  rw [State.loadBlock, rangeFault_some base m h0 h]

theorem storeBlock_ok (s : State) (base : Nat) (bytes : List Byte) (h : base + bytes.length ≤ 4096) :
    s.storeBlock base bytes = .ok (s.setMem (writeBytes s.mem base bytes)) := by
  rw [State.storeBlock, rangeFault_none base _ (Or.inr h)]

theorem storeBlock_error (s : State) (base : Nat) (bytes : List Byte) (h0 : bytes ≠ []) (h : 4096 < base + bytes.length) :
    s.storeBlock base bytes = .error (outOfRange (if base < 4096 then 4096 else base)) := by
  rw [State.storeBlock, rangeFault_some base _ (by simpa using h0) h]

/-- If a block is stored, it fits in memory and memory is the only field that changes. -/
theorem storeBlock_cases (s t : State) (base : Nat) (bytes : List Byte) (h : s.storeBlock base bytes = .ok t) :
    (bytes = [] ∨ base + bytes.length ≤ 4096) ∧ t = s.setMem (writeBytes s.mem base bytes) := by
  unfold State.storeBlock at h
  rcases rangeFault_cases base bytes.length with ⟨h1, h2⟩ | ⟨_, _, h2⟩
  · rw [h2] at h
    exact ⟨by simpa using h1, (Except.ok.inj h).symm⟩
  · rw [h2] at h
    exact absurd h (by simp)

/-! Fetch (R54). -/

theorem memRead_ok (s : State) (a : Nat) (h : a < 4096) : s.memRead a = .ok (s.byteAt a) := if_pos h

theorem memRead_error (s : State) (a : Nat) (h : ¬ a < 4096) : s.memRead a = .error (outOfRange a) := if_neg h

theorem fetch_ok (s : State) (h : s.pc.toNat ≤ 4094) :
    s.fetch = .ok (wordOfBytes (s.byteAt s.pc.toNat) (s.byteAt (s.pc.toNat + 1))) := by
  simp only [State.fetch, memRead_ok s _ (show s.pc.toNat < 4096 by omega), memRead_ok s _ (show s.pc.toNat + 1 < 4096 by omega)]

theorem fetch_error (s : State) (h : ¬ s.pc.toNat ≤ 4094) :
    s.fetch = .error (outOfRange (if s.pc.toNat = 4095 then 4096 else s.pc.toNat)) := by
  by_cases h1 : s.pc.toNat = 4095
  · simp only [State.fetch, h1]
    rw [memRead_ok s _ (by omega)]
    simp only []
    rw [memRead_error s _ (by omega)]
    simp
  · simp only [State.fetch]
    rw [memRead_error s _ (by omega), if_neg h1]

/-- If a word is fetched, `PC` is at most 4094. -/
theorem fetch_range (s : State) (op : Word) (h : s.fetch = .ok op) : s.pc.toNat ≤ 4094 := by
  by_contra hc
  rw [fetch_error s hc] at h
  exact absurd h (by simp)

/-! The end of an instruction (R9, R176). -/

@[simp] theorem finish_ok (s t : State) : s.finish (.ok t) = .next (t.setReport .running) := rfl

@[simp] theorem finish_error (s : State) (f : MachineFault) : s.finish (.error f) = .next (s.raise f) := rfl

@[simp] theorem complete_eq (s : State) : s.complete = .next (s.setReport .running) := rfl

/-- The end of an instruction is a next state: the completed one, or the old one with the fault recorded. -/
theorem finish_cases (s : State) (r : Except MachineFault State) :
    (∃ t, r = .ok t ∧ s.finish r = .next (t.setReport .running)) ∨ (∃ f, r = .error f ∧ s.finish r = .next (s.raise f)) := by
  cases r with
  | ok t => exact Or.inl ⟨t, rfl, rfl⟩
  | error f => exact Or.inr ⟨f, rfl, rfl⟩

/-! The block of registers PUSH stores (R145). -/

@[simp] theorem regsFrom_length (s : State) (k n : Nat) : (s.regsFrom k n).length = n := by
  induction n generalizing k with
  | zero => rfl
  | succ n ih => simp [State.regsFrom, ih]

theorem regsFrom_getD (s : State) (k n j : Nat) (h : j < n) : (s.regsFrom k n).getD j 0 = s.reg (BitVec.ofNat 4 (k + j)) := by
  induction n generalizing k j with
  | zero => omega
  | succ n ih =>
    cases j with
    | zero => rfl
    | succ j =>
      rw [State.regsFrom, List.getD_cons_succ, ih (k + 1) j (by omega), Nat.add_right_comm, Nat.add_assoc]

/-! The loops of DRAW (R151): each keeps the canonical form of the frame buffer. -/

theorem drawPixel_wf (col row : Nat) (bit : Bool) (p : Blit) (h : FrameBuffer.wf p.fb) :
    FrameBuffer.wf (drawPixel col row bit p).fb := by
  unfold drawPixel
  split
  · rename_i hc
    exact frameBuffer_wf_flip p.fb col row h hc.2.1 hc.2.2
  · exact h

theorem drawRow_wf (px row : Nat) (b : Byte) (left : Nat) (p : Blit) (h : FrameBuffer.wf p.fb) :
    FrameBuffer.wf (drawRow px row b left p).fb := by
  induction left generalizing p with
  | zero => exact h
  | succ left ih => exact ih _ (drawPixel_wf _ _ _ _ h)

theorem drawRows_wf (px : Nat) (rows : List Byte) (py : Nat) (p : Blit) (h : FrameBuffer.wf p.fb) :
    FrameBuffer.wf (drawRows px py rows p).fb := by
  induction rows generalizing py p with
  | nil => exact h
  | cons b bs ih => exact ih _ _ (drawRow_wf _ _ _ _ _ h)

/-! The host's moves (R190). -/

/-- What one host operation can do. -/
theorem hostOp_cases (s t : State) (op : HostOp) (h : s.hostOp op = .ok t) :
    (op = .reset ∧ t = s.resetMachine) ∨
      (∃ rom, op = .loadRom rom ∧ rom.length ≤ 3584 ∧
        t = (s.setMem (writeBytes s.mem 512 rom)).setLateRom (s.lateRom || s.report.isSome)) ∨
      (op = .tick ∧ t = s.tick) ∨ (op = .clearDirty ∧ t = s.clearDirty) := by
  cases op with
  | reset => exact Or.inl ⟨rfl, (Except.ok.inj h).symm⟩
  | loadRom rom =>
    simp only [State.hostOp, State.loadRom] at h
    split at h
    · exact absurd h (by simp)
    · rename_i h2
      refine Or.inr (Or.inl ⟨rom, rfl, ?_, (Except.ok.inj h).symm⟩)
      simpa [maxRom, Config.memSize, Config.programOrigin] using h2
  | tick => exact Or.inr (Or.inr (Or.inl ⟨rfl, (Except.ok.inj h).symm⟩))
  | clearDirty => exact Or.inr (Or.inr (Or.inr ⟨rfl, (Except.ok.inj h).symm⟩))

/-- What every host operation keeps, a list of them keeps. -/
theorem hostOps_induct (P : State → Prop) (hop : ∀ s t op, P s → s.hostOp op = .ok t → P t) (ops : List HostOp) (s t : State)
    (hs : P s) (h : s.hostOps ops = .ok t) : P t := by
  induction ops generalizing s with
  | nil => exact Except.ok.inj h ▸ hs
  | cons op ops ih =>
    rw [State.hostOps] at h
    cases h1 : s.hostOp op with
    | error r => rw [h1] at h; exact absurd h (by simp)
    | ok u => rw [h1] at h; exact ih u (hop s u op hs h1) h

/-- A turn that is not refused: its gap's operations, then the input of the cycle it drives, or no cycle. -/
theorem hostPhase_cases (s t : State) (h : s.hostPhase = .ok t) :
    ∃ u, s.hostGap = .ok u ∧ ((s.nextDrive.input = none ∧ t = u) ∨
      ∃ c, s.nextDrive.input = some c ∧ u.runsLateRom = false ∧ t = u.present c) := by
  unfold State.hostPhase at h
  cases hg : s.hostGap with
  | error r => rw [hg] at h; exact absurd h (by simp)
  | ok u =>
    rw [hg] at h
    cases hi : s.nextDrive.input with
    | none => rw [hi] at h; exact ⟨u, rfl, Or.inl ⟨rfl, (Except.ok.inj h).symm⟩⟩
    | some c =>
      cases hl : u.runsLateRom with
      | true => simp [hi, hl] at h
      | false =>
        simp only [hi, hl, Bool.false_eq_true, if_false] at h
        exact ⟨u, rfl, Or.inr ⟨c, rfl, hl, (Except.ok.inj h).symm⟩⟩

/-- What the host's operations and inputs keep, a turn keeps. -/
theorem hostPhase_induct (P : State → Prop) (s t : State) (h : s.hostPhase = .ok t) (hs : P { s with host := s.host.tail })
    (hop : ∀ s t op, P s → s.hostOp op = .ok t → P t) (hin : ∀ s c, P s → P (s.present c)) : P t := by
  obtain ⟨u, hg, ⟨_, rfl⟩ | ⟨c, _, _, rfl⟩⟩ := hostPhase_cases s t h
  · exact hostOps_induct P hop _ _ _ hs hg
  · exact hin _ _ (hostOps_induct P hop _ _ _ hs hg)

/-- An empty schedule: the host does nothing before the cycle and presents nothing. -/
theorem hostPhase_empty (s : State) (h : s.host = []) (hl : s.lateRom = false) :
    s.hostPhase = .ok { s with host := [], input := ⟨none, none⟩ } := by
  cases s
  cases h
  cases hl
  rfl

/-! One cycle and one step (R170). -/

/-- What a cycle can be: a halted one, a fetch out of range, a word that is no instruction, or an instruction executed. -/
theorem cycle_cases (t u : State) (h : cycle t = .next u) :
    (t.status = .halted ∧ u = t.setReport .halted) ∨
      (t.status = .running ∧ ¬ t.pc.toNat ≤ 4094 ∧ u = t.raise (outOfRange (if t.pc.toNat = 4095 then 4096 else t.pc.toNat))) ∨
      (∃ op e, t.status = .running ∧ t.pc.toNat ≤ 4094 ∧ t.fetch = .ok op ∧ decode op = .error e ∧ u = t.raise (unrecognized op)) ∨
      (∃ op i, t.status = .running ∧ t.pc.toNat ≤ 4094 ∧ t.fetch = .ok op ∧ decode op = .ok i ∧ exec i t = .next u) := by
  unfold cycle at h
  cases hs : t.status with
  | halted =>
    rw [hs] at h
    exact Or.inl ⟨rfl, (Host.Outcome.next.inj h).symm⟩
  | running =>
    rw [hs] at h
    by_cases hpc : t.pc.toNat ≤ 4094
    · cases hf : t.fetch with
      | error f => rw [fetch_ok t hpc] at hf; exact absurd hf (by simp)
      | ok op =>
        rw [hf] at h
        cases hd : decode op with
        | error e =>
          simp only [hd] at h
          exact Or.inr (Or.inr (Or.inl ⟨op, e, rfl, hpc, rfl, hd, (Host.Outcome.next.inj h).symm⟩))
        | ok i =>
          simp only [hd] at h
          exact Or.inr (Or.inr (Or.inr ⟨op, i, rfl, hpc, rfl, hd, h⟩))
    · rw [fetch_error t hpc] at h
      exact Or.inr (Or.inl ⟨rfl, hpc, (Host.Outcome.next.inj h).symm⟩)

/-- What a step that answers can be: a turn of the host without a cycle, or one and then its cycle. -/
theorem step_cases (s u : State) (h : step s = .next u) :
    ∃ t, s.hostPhase = .ok t ∧
      ((s.nextDrive.input = none ∧ u = t) ∨ ∃ c, s.nextDrive.input = some c ∧ cycle t = .next u) := by
  unfold step at h
  cases hp : s.hostPhase with
  | error r => rw [hp] at h; exact absurd h (by simp)
  | ok t =>
    rw [hp] at h
    cases hi : s.nextDrive.input with
    | none => rw [hi] at h; exact ⟨t, rfl, Or.inl ⟨rfl, (Host.Outcome.next.inj h).symm⟩⟩
    | some c => rw [hi] at h; exact ⟨t, rfl, Or.inr ⟨c, rfl, h⟩⟩

end Sys2Proof.Machine
end

