-- ==== Sys2Proof/Laws/PerInstr.lean ====
section
/-! SUPPORT. Per-instruction family EncodeMatches: the word of an instruction carries the template bits of its row of the opcode
map (rules R72, R74), whatever its operands. -/

namespace Sys2Proof.Laws

/-- The word of `i`, under the mask of its operand class, is the template of its keyword. -/
def EncodeMatches.Statement (i : Instr) : Prop :=
  encode i &&& i.mnemonic.operandClass.mask = i.mnemonic.template

theorem EncodeMatches.cls : EncodeMatches.Statement .cls := by unfold EncodeMatches.Statement; decide

theorem EncodeMatches.ret : EncodeMatches.Statement .ret := by unfold EncodeMatches.Statement; decide

theorem EncodeMatches.jump (nnn : Addr12) : EncodeMatches.Statement (.jump nnn) := word_mask_B _ nnn

theorem EncodeMatches.call (nnn : Addr12) : EncodeMatches.Statement (.call nnn) := word_mask_B _ nnn

theorem EncodeMatches.ske (x : Nibble) (nn : Byte) : EncodeMatches.Statement (.ske x nn) := word_mask_C _ x nn

theorem EncodeMatches.skne (x : Nibble) (nn : Byte) : EncodeMatches.Statement (.skne x nn) := word_mask_C _ x nn

theorem EncodeMatches.skre (x y : Nibble) : EncodeMatches.Statement (.skre x y) := word_mask_D _ x y _

theorem EncodeMatches.load (x : Nibble) (nn : Byte) : EncodeMatches.Statement (.load x nn) := word_mask_C _ x nn

theorem EncodeMatches.add (x : Nibble) (nn : Byte) : EncodeMatches.Statement (.add x nn) := word_mask_C _ x nn

theorem EncodeMatches.move (x y : Nibble) : EncodeMatches.Statement (.move x y) := word_mask_D _ x y _

theorem EncodeMatches.or (x y : Nibble) : EncodeMatches.Statement (.or x y) := word_mask_D _ x y _

theorem EncodeMatches.and (x y : Nibble) : EncodeMatches.Statement (.and x y) := word_mask_D _ x y _

theorem EncodeMatches.xor (x y : Nibble) : EncodeMatches.Statement (.xor x y) := word_mask_D _ x y _

theorem EncodeMatches.addr (x y : Nibble) : EncodeMatches.Statement (.addr x y) := word_mask_D _ x y _

theorem EncodeMatches.sub (x y : Nibble) : EncodeMatches.Statement (.sub x y) := word_mask_D _ x y _

theorem EncodeMatches.shr (x : Nibble) : EncodeMatches.Statement (.shr x) := word_mask_D _ x 0 _

theorem EncodeMatches.subb (x y : Nibble) : EncodeMatches.Statement (.subb x y) := word_mask_D _ x y _

theorem EncodeMatches.shl (x : Nibble) : EncodeMatches.Statement (.shl x) := word_mask_D _ x 0 _

theorem EncodeMatches.jneq (x y : Nibble) : EncodeMatches.Statement (.jneq x y) := word_mask_D _ x y _

theorem EncodeMatches.loadi (nnn : Addr12) : EncodeMatches.Statement (.loadi nnn) := word_mask_B _ nnn

theorem EncodeMatches.jumpi (nnn : Addr12) : EncodeMatches.Statement (.jumpi nnn) := word_mask_B _ nnn

theorem EncodeMatches.rand (x : Nibble) (nn : Byte) : EncodeMatches.Statement (.rand x nn) := word_mask_C _ x nn

theorem EncodeMatches.draw (x y n : Nibble) : EncodeMatches.Statement (.draw x y n) := word_mask_F _ x y n

theorem EncodeMatches.skpr (x : Nibble) : EncodeMatches.Statement (.skpr x) := word_mask_E _ x _

theorem EncodeMatches.skup (x : Nibble) : EncodeMatches.Statement (.skup x) := word_mask_E _ x _

theorem EncodeMatches.moved (x : Nibble) : EncodeMatches.Statement (.moved x) := word_mask_E _ x _

theorem EncodeMatches.keyd (x : Nibble) : EncodeMatches.Statement (.keyd x) := word_mask_E _ x _

theorem EncodeMatches.loadd (x : Nibble) : EncodeMatches.Statement (.loadd x) := word_mask_E _ x _

theorem EncodeMatches.loads (x : Nibble) : EncodeMatches.Statement (.loads x) := word_mask_E _ x _

theorem EncodeMatches.addi (x : Nibble) : EncodeMatches.Statement (.addi x) := word_mask_E _ x _

theorem EncodeMatches.ldspr (x : Nibble) : EncodeMatches.Statement (.ldspr x) := word_mask_E _ x _

theorem EncodeMatches.bcd (x : Nibble) : EncodeMatches.Statement (.bcd x) := word_mask_E _ x _

theorem EncodeMatches.push (x : Nibble) : EncodeMatches.Statement (.push x) := word_mask_E _ x _

theorem EncodeMatches.pop (x : Nibble) : EncodeMatches.Statement (.pop x) := word_mask_E _ x _

end Sys2Proof.Laws
end

