-- ==== Sys2Proof/Tests/Slice0.lean ====
section
/-! SUPPORT. Tests: well-formedness, decoding and packing of words written out from 30_encoding.md and 95_test_vectors.md, then
one step of each instruction with the results 95_test_vectors.md gives (its ids stand in the comments), then a witness for the
hypotheses of each obligation. No expected value comes from the model. -/

open Sys2Proof Sys2Proof.Machine

namespace Sys2Proof.Tests

/-! Helpers. -/

/-- One field of a next state. -/
def look {α : Type} (f : State → α) : Host.Outcome State Fault Refusal → Option α
  | .next t => some (f t)
  | .fault _ => none
  | .refused _ => none

/-- After reset, the word at 0x200. -/
def word (w : Nat) : State := State.reset.withFetchWord 16 w

/-- The same with registers set. -/
def regs (w : Nat) (l : List (Nibble × Byte)) : State := l.foldl (fun s p => s.setReg p.1 p.2) (word w)

/-- Bytes stored from an address on. -/
def bytes (s : State) (base : Nat) (l : List Byte) : State := s.setMem (writeBytes s.mem base l)

/-- The host's next cycle brings a key event. -/
def event (s : State) (k : Byte) : State := { s with host := [⟨[], some ⟨some k, none⟩⟩] }

/-- The host's next cycle supplies a random byte. -/
def supply (s : State) (b : Byte) : State := { s with host := [⟨[], some ⟨none, some b⟩⟩] }

/-- The host's next turn. -/
def turn (s : State) (before : List HostOp) (input : Option CycleInput) : State := { s with host := [⟨before, input⟩] }

/-- The fault record, `PC` and the report. -/
structure FaultView where
  status : Status
  code : Nat
  info : Word
  pc : Word
  report : Option Report
  deriving DecidableEq

def faultView (s : State) : FaultView := ⟨s.status, s.faultCode.number, s.faultInfo, s.pc, s.report⟩

/-! Well-formedness: an ill-formed term for each check, which the check refuses. -/

theorem test_wf_accepts : SourceInstr.wellFormed ⟨.load, [0xA, 2]⟩ = true ∧ SourceInstr.wellFormed ⟨.draw, [15, 15, 15]⟩ = true ∧
    SourceInstr.wellFormed ⟨.shr, [3]⟩ = true ∧ SourceInstr.wellFormed ⟨.cls, []⟩ = true := by decide

theorem test_wf_nibble : SourceInstr.wellFormed ⟨.load, [0x10, 2]⟩ = false ∧ SourceInstr.wellFormed ⟨.skre, [1, 0x10]⟩ = false ∧
    SourceInstr.wellFormed ⟨.draw, [1, 2, 0x10]⟩ = false ∧ SourceInstr.wellFormed ⟨.loadd, [0x1F]⟩ = false := by decide

theorem test_wf_byte : SourceInstr.wellFormed ⟨.ske, [1, 0x100]⟩ = false := by decide

theorem test_wf_addr : SourceInstr.wellFormed ⟨.jump, [0x1234]⟩ = false := by decide

theorem test_wf_count : SourceInstr.wellFormed ⟨.cls, [1]⟩ = false ∧ SourceInstr.wellFormed ⟨.jump, []⟩ = false ∧
    SourceInstr.wellFormed ⟨.draw, [1, 2]⟩ = false := by decide

theorem test_wf_shift_operand : SourceInstr.wellFormed ⟨.shr, [1, 2]⟩ = false ∧ SourceInstr.wellFormed ⟨.sub, [1]⟩ = false := by
  decide

/-! Decoding: words of 95_test_vectors.md part 3, every constructor. -/

theorem test_decode_control : decode 0x00EE = .ok .ret ∧ decode 0x1AAA = .ok (.jump 0xAAA) ∧ decode 0x2FFF = .ok (.call 0xFFF) ∧
    decode 0x3F00 = .ok (.ske 15 0) ∧ decode 0x45AB = .ok (.skne 5 0xAB) ∧ decode 0x5AB0 = .ok (.skre 10 11) ∧
    decode 0x9AB0 = .ok (.jneq 10 11) ∧ decode 0xBFFF = .ok (.jumpi 0xFFF) := by decide

theorem test_decode_alu : decode 0x6A02 = .ok (.load 10 2) ∧ decode 0x7FFF = .ok (.add 15 0xFF) ∧ decode 0x8AB0 = .ok (.move 10 11) ∧
    decode 0x8AB1 = .ok (.or 10 11) ∧ decode 0x8AB2 = .ok (.and 10 11) ∧ decode 0x8AB3 = .ok (.xor 10 11) ∧
    decode 0x8AB4 = .ok (.addr 10 11) ∧ decode 0x8AB5 = .ok (.sub 10 11) := by decide

theorem test_decode_shift_random : decode 0x8AB6 = .ok (.shr 10) ∧ decode 0x8AB7 = .ok (.subb 10 11) ∧
    decode 0x8ABE = .ok (.shl 10) ∧ decode 0xC0FF = .ok (.rand 0 0xFF) := by decide

theorem test_decode_index_memory : decode 0xA000 = .ok (.loadi 0) ∧ decode 0xF51E = .ok (.addi 5) ∧ decode 0xF529 = .ok (.ldspr 5) ∧
    decode 0xF533 = .ok (.bcd 5) ∧ decode 0xF555 = .ok (.push 5) ∧ decode 0xF565 = .ok (.pop 5) := by decide

theorem test_decode_display : decode 0x00E0 = .ok .cls ∧ decode 0xD122 = .ok (.draw 1 2 2) ∧ decode 0xDFFF = .ok (.draw 15 15 15) := by
  decide

theorem test_decode_key_timer : decode 0xE59E = .ok (.skpr 5) ∧ decode 0xE5A1 = .ok (.skup 5) ∧ decode 0xF507 = .ok (.moved 5) ∧
    decode 0xF50A = .ok (.keyd 5) ∧ decode 0xF515 = .ok (.loadd 5) ∧ decode 0xF518 = .ok (.loads 5) := by decide

theorem test_decode_refuses_short_templates :
    decode 0x0000 = .error (.unrecognized 0x0000) ∧ decode 0x00E1 = .error (.unrecognized 0x00E1) ∧
    decode 0x01E0 = .error (.unrecognized 0x01E0) ∧ decode 0x5001 = .error (.unrecognized 0x5001) ∧
    decode 0x8008 = .error (.unrecognized 0x8008) ∧ decode 0x8ABF = .error (.unrecognized 0x8ABF) ∧
    decode 0x9001 = .error (.unrecognized 0x9001) := by decide

theorem test_decode_refuses_low_bytes :
    decode 0xE09D = .error (.unrecognized 0xE09D) ∧ decode 0xE59F = .error (.unrecognized 0xE59F) ∧
    decode 0xEFFF = .error (.unrecognized 0xEFFF) ∧ decode 0xF000 = .error (.unrecognized 0xF000) ∧
    decode 0xF50B = .error (.unrecognized 0xF50B) ∧ decode 0xF575 = .error (.unrecognized 0xF575) ∧
    decode 0xFFFF = .error (.unrecognized 0xFFFF) := by decide

/-- A truncated instruction; 95_test_vectors.md S13 for the byte order. -/
theorem test_decode_bytes : decodeBytes [0x6A] = .error (.truncated 1) ∧ decodeBytes [0x6A, 0x02, 0x77] = .ok (.load 10 2, [0x77]) := by
  decide

theorem test_table_word : decodeTableWord 16 0x6A02 = some (.load 10 2) ∧ decodeTableWord 16 0xF533 = some (.bcd 5) ∧
    decodeTableWord 16 0x5AB8 = none := by decide

/-! Encoding and packing: 95_test_vectors.md part 4. -/

theorem test_encode : encodeBytes (.jump 0x20C) = [0x12, 0x0C] ∧ encodeBytes (.load 10 2) = [0x6A, 0x02] ∧
    encode (.shr 3) = 0x8306 ∧ encode (.skpr 5) = 0xE59E ∧ encode (.draw 1 2 2) = 0xD122 ∧ encode (.addr 0 1) = 0x8014 := by decide

theorem test_pack : SourceInstr.pack ⟨.jump, [0x1234]⟩ = some 0x1234 ∧ SourceInstr.pack ⟨.load, [0x10, 2]⟩ = some 0x7002 ∧
    SourceInstr.pack ⟨.loadd, [0x1F]⟩ = some 0xFF15 ∧ SourceInstr.pack ⟨.shr, [3]⟩ = some 0x8306 ∧
    SourceInstr.pack ⟨.rand, [1, 0x0F]⟩ = some 0xC10F ∧ SourceInstr.pack ⟨.draw, [1, 2, 2]⟩ = some 0xD122 ∧
    SourceInstr.pack ⟨.ret, []⟩ = some 0x00EE := by decide

/-! Assembly text: S1 and 95_test_vectors.md part 4, with its lines on disassembly. -/

/-- S1: `LOAD #a, 0x02`; and `LOAD va, 2` of part 4. -/
theorem test_assemble_load :
    assembleLine ['L', 'O', 'A', 'D', ' ', '#', 'a', ',', ' ', '0', 'x', '0', '2'] = .ok (some 0x6A02) ∧
    assembleLine ['L', 'O', 'A', 'D', ' ', 'v', 'a', ',', ' ', '2'] = .ok (some 0x6A02) := by decide

/-- `CALL 208`, `LOADD #1f`, then a comment-only line and an image of two lines. -/
theorem test_assemble_image :
    assembleLine ['L', 'O', 'A', 'D', 'D', ' ', '#', '1', 'f'] = .ok (some 0xFF15) ∧
    assembleLine [' ', ';', ' ', 'x'] = .ok none ∧
    assemble [['C', 'A', 'L', 'L', ' ', '2', '0', '8'], [], ['C', 'L', 'S']] =
      .ok [0x22, 0x08, 0x00, 0xE0] := by decide

/-- `6A02` is `LOAD #a, 0x02`, `1AAA` is `JUMP 0xaaa`. -/
theorem test_render_load_jump :
    (disassemble 0x6A02).map render = some ['L', 'O', 'A', 'D', ' ', '#', 'a', ',', ' ', '0', 'x', '0', '2'] ∧
    (disassemble 0x1AAA).map render = some ['J', 'U', 'M', 'P', ' ', '0', 'x', 'a', 'a', 'a'] := by decide

/-- `8AB6` is `SHR #a`, `D122` is `DRAW #1, #2, 0x02`; `5AB8` is unknown. -/
theorem test_render_shr_draw :
    (disassemble 0x8AB6).map render = some ['S', 'H', 'R', ' ', '#', 'a'] ∧
    (disassemble 0xD122).map render =
      some ['D', 'R', 'A', 'W', ' ', '#', '1', ',', ' ', '#', '2', ',', ' ', '0', 'x', '0', '2'] ∧
    disassemble 0x5AB8 = none := by decide

/-- `LOAD #a, 0x02` at 0x200, then `CLS`, in the layout of R88. -/
theorem test_listing_known :
    listing [0x6A, 0x02, 0x00, 0xE0] =
      [['0', 'x', '2', '0', '0', ' ', ' ', 'L', 'O', 'A', 'D', ' ', '#', 'a', ',', ' ', '0', 'x', '0', '2', ' ', ' ', ';', ' ',
        '0', 'x', '6', 'a', '0', '2'],
       ['0', 'x', '2', '0', '2', ' ', ' ', 'C', 'L', 'S', ' ', ' ', ';', ' ', '0', 'x', '0', '0', 'e', '0']] := by decide

/-- The unknown word `5AB8` is reported (R92) and the `JUMP` after it is still listed. -/
theorem test_listing_goes_on :
    (listingEntries 0x200 [0x5A, 0xB8, 0x1A, 0xAA]).map (fun e => (e.address, e.source)) =
      [(0x200, none), (0x202, some ⟨.jump, [0xAAA]⟩)] := by decide

/-! Control transfer. -/

/-- S2. -/
theorem test_jump : look State.pc (step (word 0x1AAA)) = some 0xAAA := by decide

/-- T-CT-2: the next cycle faults. -/
theorem test_fetch_at_4095 : look faultView (step ((word 0).setPc 0xFFF)) =
    some ⟨.halted, 4, 0x1000, 0xFFF, some .halted⟩ := by decide

/-- S3a. -/
theorem test_call : look (fun t => (t.sp, t.slot 1, t.slot 0, t.pc)) (step (word 0x2AAA)) = some (1, 0x200, 0, 0xAAA) := by decide

/-- T-CT-4. -/
theorem test_call_overflow : look (fun t => (faultView t, t.sp, t.slot 15)) (step ((word 0x2300).setSp 15)) =
    some (⟨.halted, 2, 15, 0x200, some .halted⟩, 15, 0) := by decide

/-- T-CT-7. -/
theorem test_ret : look (fun t => (t.pc, t.sp)) (step (((word 0x00EE).setSp 15).setSlot 15 0xABC)) = some (0xABC, 14) := by decide

/-- T-CT-6. -/
theorem test_ret_underflow : look (fun t => (faultView t, t.sp)) (step (word 0x00EE)) =
    some (⟨.halted, 3, 0, 0x200, some .halted⟩, 0) := by decide

/-- T-CT-9. -/
theorem test_ske : look State.pc (step (regs 0x3A02 [(10, 2)])) = some 0x204 ∧
    look State.pc (step (regs 0x3A02 [(10, 3)])) = some 0x202 := by decide

/-- T-CT-10. -/
theorem test_skne : look State.pc (step (regs 0x4A02 [(10, 2)])) = some 0x202 ∧
    look State.pc (step (regs 0x4A02 [(10, 3)])) = some 0x204 := by decide

/-- T-CT-11, T-CT-11b. -/
theorem test_skre : look State.pc (step (regs 0x5120 [(1, 7), (2, 7)])) = some 0x204 ∧
    look State.pc (step (regs 0x5120 [(1, 7), (2, 8)])) = some 0x202 := by decide

/-- T-CT-11, T-CT-11b. -/
theorem test_jneq : look State.pc (step (regs 0x9120 [(1, 7), (2, 7)])) = some 0x202 ∧
    look State.pc (step (regs 0x9120 [(1, 7), (2, 8)])) = some 0x204 := by decide

/-- T-CT-14, T-CT-15. -/
theorem test_jumpi : look State.pc (step (regs 0xB204 [(0, 4)])) = some 0x208 ∧
    look State.pc (step (regs 0xBFFF [(0, 0xFF)])) = some 0x10FE := by decide

/-! Registers. -/

/-- S1. -/
theorem test_load : look (fun t => (t.reg 10, t.pc)) (step (word 0x6A02)) = some (2, 0x202) := by decide

/-- T-ALU-2. -/
theorem test_add : look (fun t => (t.reg 0, t.reg 15)) (step (regs 0x7001 [(0, 0xFF)])) = some (0, 0) := by decide

/-- T-ALU-5. -/
theorem test_move : look (fun t => (t.reg 1, t.reg 2)) (step (regs 0x8120 [(1, 0xF0), (2, 0x3C)])) = some (0x3C, 0x3C) := by decide

/-- T-ALU-6. -/
theorem test_or : look (fun t => (t.reg 1, t.reg 15)) (step (regs 0x8121 [(1, 0xF0), (2, 0x3C), (15, 0x55)])) =
    some (0xFC, 0x55) := by decide

/-- T-ALU-6. -/
theorem test_and : look (fun t => (t.reg 1, t.reg 15)) (step (regs 0x8122 [(1, 0xF0), (2, 0x3C), (15, 0x55)])) =
    some (0x30, 0x55) := by decide

/-- T-ALU-6. -/
theorem test_xor : look (fun t => (t.reg 1, t.reg 15)) (step (regs 0x8123 [(1, 0xF0), (2, 0x3C), (15, 0x55)])) =
    some (0xCC, 0x55) := by decide

/-- S4. -/
theorem test_addr : look (fun t => (t.reg 0, t.reg 1, t.reg 15)) (step (regs 0x8014 [(0, 0xFF), (1, 0xFF)])) =
    some (0xFE, 0xFF, 1) := by decide

/-- T-ALU-21, T-ALU-22. -/
theorem test_addr_flag_operand : look (State.reg · 15) (step (regs 0x8F14 [(15, 3), (1, 4)])) = some 0 ∧
    look (fun t => (t.reg 0, t.reg 15)) (step (regs 0x80F4 [(0, 1), (15, 0xFF)])) = some (0, 1) := by decide

/-- T-ALU-12, T-ALU-13. -/
theorem test_sub : look (fun t => (t.reg 0, t.reg 15)) (step (regs 0x8015 [(0, 3), (1, 5)])) = some (0xFE, 0) ∧
    look (fun t => (t.reg 0, t.reg 15)) (step (regs 0x8015 [(0, 5), (1, 5)])) = some (0, 1) := by decide

/-- T-ALU-23. -/
theorem test_sub_flag_operand : look (State.reg · 15) (step (regs 0x8F15 [(15, 5), (1, 3)])) = some 1 := by decide

/-- T-ALU-14, T-ALU-15. -/
theorem test_subb : look (fun t => (t.reg 0, t.reg 1, t.reg 15)) (step (regs 0x8017 [(0, 3), (1, 5)])) = some (2, 5, 1) ∧
    look (fun t => (t.reg 0, t.reg 15)) (step (regs 0x8017 [(0, 5), (1, 3)])) = some (0xFE, 0) := by decide

/-- T-ALU-17: `y` is ignored. -/
theorem test_shr : look (fun t => (t.reg 0, t.reg 3, t.reg 15)) (step (regs 0x8036 [(0, 4), (3, 0xFF)])) = some (2, 0xFF, 0) := by
  decide

/-- T-ALU-16, T-ALU-25. -/
theorem test_shr_flag : look (fun t => (t.reg 0, t.reg 15)) (step (regs 0x8006 [(0, 5)])) = some (2, 1) ∧
    look (State.reg · 15) (step (regs 0x8F06 [(15, 3)])) = some 0 := by decide

/-- T-ALU-18, T-ALU-19. -/
theorem test_shl : look (fun t => (t.reg 0, t.reg 15)) (step (regs 0x800E [(0, 0x81)])) = some (2, 1) ∧
    look (fun t => (t.reg 0, t.reg 15)) (step (regs 0x800E [(0, 0x40)])) = some (0x80, 0) := by decide

/-- T-ALU-26. -/
theorem test_shl_flag : look (State.reg · 15) (step (regs 0x8F0E [(15, 0x80)])) = some 2 := by decide

/-- T-ALU-28: the random byte is an input. -/
theorem test_rand : look (fun t => (t.reg 1, t.pc)) (step (supply (word 0xC10F) 0xA7)) = some (7, 0x202) := by decide

/-! Index register and memory. -/

/-- T-MEM-1. -/
theorem test_loadi : look State.i (step (word 0xA123)) = some 0x123 := by decide

/-- T-MEM-3, T-MEM-4. -/
theorem test_addi : look (fun t => (t.i, t.reg 15)) (step ((regs 0xF01E [(0, 1)]).setI 0xFFF)) = some (0, 1) ∧
    look (fun t => (t.i, t.reg 15)) (step ((regs 0xF01E [(0, 0xFE)]).setI 0xF01)) = some (0xFFF, 0) := by decide

/-- T-MEM-2. -/
theorem test_addi_keeps_flag : look (fun t => (t.i, t.reg 15)) (step ((regs 0xF01E [(0, 0x10), (15, 0x77)]).setI 0x100)) =
    some (0x110, 0x77) := by decide

/-- T-MEM-6. -/
theorem test_ldspr : look State.i (step (regs 0xF029 [(0, 0x1A)])) = some 0x32 ∧
    look State.i (step (regs 0xF029 [(0, 0xFF)])) = some 0x4B := by decide

/-- T-MEM-8: the last valid place. -/
theorem test_bcd : look (fun t => (t.byteAt 0xFFD, t.byteAt 0xFFE, t.byteAt 0xFFF, t.pc)) (step ((regs 0xF033 [(0, 123)]).setI 0xFFD)) =
    some (1, 2, 3, 0x202) := by decide

/-- T-MEM-9. -/
theorem test_bcd_fault : look (fun t => (faultView t, t.byteAt 0xFFE)) (step ((regs 0xF033 [(0, 123)]).setI 0xFFE)) =
    some (⟨.halted, 4, 0x1000, 0x200, some .halted⟩, 0) := by decide

/-- T-MEM-10. -/
theorem test_push : look (fun t => ([t.byteAt 0x300, t.byteAt 0x303, t.byteAt 0x304], t.i))
    (step ((regs 0xF355 [(0, 0x11), (1, 0x22), (2, 0x33), (3, 0x44), (4, 0x55)]).setI 0x300)) = some ([0x11, 0x44, 0], 0x300) := by
  decide

/-- T-MEM-12: no partial store. -/
theorem test_push_fault : look (fun t => (faultView t, t.byteAt 0xFFF)) (step ((regs 0xF155 [(0, 0x9A), (1, 0xBC)]).setI 0xFFF)) =
    some (⟨.halted, 4, 0x1000, 0x200, some .halted⟩, 0) := by decide

/-- T-MEM-13: glyph 0 of the font. -/
theorem test_pop : look (fun t => [t.reg 0, t.reg 1, t.reg 2, t.reg 3]) (step (word 0xF265)) = some [0xF0, 0x90, 0x90, 0] := by decide

/-- T-MEM-14. -/
theorem test_pop_fault : look (fun t => (faultView t, t.reg 0)) (step ((regs 0xF165 [(0, 0x55)]).setI 0xFFF)) =
    some (⟨.halted, 4, 0x1000, 0x200, some .halted⟩, 0x55) := by decide

/-! Display. -/

/-- T-DSP-1. -/
theorem test_cls : look (fun t => (t.pixelAt 0 0, t.pixelAt 63 31, t.dirty, t.pc))
    (step ((word 0x00E0).setFb (setPixel (setPixel [] 0 0 1) 63 31 1))) = some (0, 0, true, 0x202) := by decide

/-- T-DSP-4: clipped at the corner of the screen. -/
theorem test_draw_clips : look (fun t => (t.fb, t.reg 15, t.dirty))
    (step (bytes ((regs 0xD122 [(1, 62), (2, 31)]).setI 0x20C) 0x20C [0xC0, 0xC0])) = some ([(2046, 1), (2047, 1)], 0, true) := by
  decide

/-- T-DSP-11: a collision, and a sprite bit 0 leaves its cell. -/
theorem test_draw_collides : look (fun t => ([t.pixelAt 0 0, t.pixelAt 1 0, t.pixelAt 3 0, t.pixelAt 4 0], t.reg 15))
    (step ((bytes ((word 0xD011).setI 0x300) 0x300 [0xF0]).setFb (setPixel (setPixel [] 0 0 1) 4 0 1))) =
    some ([0, 1, 1, 1], 1) := by decide

/-! Keys and timers. -/

/-- T-KT-1, T-KT-4. -/
theorem test_skpr : look State.pc (step ((regs 0xE09E [(0, 5)]).setKey 5)) = some 0x204 ∧
    look State.pc (step ((regs 0xE09E [(0, 0x15)]).setKey 5)) = some 0x202 := by decide

/-- T-KT-5. -/
theorem test_skpr_event : look (fun t => (t.key, t.pc)) (step (event ((regs 0xE09E [(0, 9)]).setKey 5) 9)) = some (9, 0x204) := by
  decide

/-- T-KT-2. -/
theorem test_skup : look State.pc (step ((regs 0xE0A1 [(0, 5)]).setKey 5)) = some 0x202 ∧
    look State.pc (step ((regs 0xE0A1 [(0, 6)]).setKey 5)) = some 0x204 := by decide

/-- T-KT-6. -/
theorem test_moved : look (fun t => (t.reg 1, t.dt)) (step ((word 0xF107).setDt 0x2A)) = some (0x2A, 0x2A) := by decide

/-- T-KT-7. -/
theorem test_loadd : look (fun t => (t.dt, t.st)) (step (regs 0xF115 [(1, 0x3C)])) = some (0x3C, 0) := by decide

/-- T-KT-7. -/
theorem test_loads : look (fun t => (t.st, t.dt)) (step (regs 0xF118 [(1, 0x3C)])) = some (0x3C, 0) := by decide

/-- T-KT-8. -/
theorem test_keyd_waits : look (fun t => (t.pc, t.reg 2, t.status, t.report)) (step ((word 0xF20A).setKey 7)) =
    some (0x200, 0, .running, some .needsInput) := by decide

/-- T-KT-9. -/
theorem test_keyd_event : look (fun t => (t.key, t.reg 2, t.pc, t.report)) (step (event ((word 0xF20A).setKey 3) 7)) =
    some (7, 7, 0x202, some .running) := by decide

/-! The host. -/

/-- T-KT-10, T-KT-11. -/
theorem test_tick : ((word 0).setDt 2).tick.dt = 1 ∧ ((word 0).setDt 0).tick.dt = 0 ∧
    (((word 0).setDt 0xFF).setSt 1).tick.dt = 0xFE ∧ (((word 0).setDt 0xFF).setSt 1).tick.st = 0 := by decide

/-- T-KT-13. -/
theorem test_halted_cycle : look (fun t => (t.key, faultView t)) (step (event ((word 0x6A02).raise ⟨.unrecognizedOpcode, 0⟩) 4)) =
    some (4, ⟨.halted, 1, 0, 0x200, some .halted⟩) := by decide

/-- T-KT-15. -/
theorem test_reset_without_rom : look faultView (step State.reset) = some ⟨.halted, 1, 0, 0x200, some .halted⟩ := by decide

/-- 70_reset_and_hazards.md R212: reset, load, drive; the ROM is the word `6A02`. -/
theorem test_rom_load : look (fun t => (t.reg 10, t.pc, t.byteAt 0x200))
    (step (turn State.reset [.reset, .loadRom [0x6A, 0x02]] (some ⟨none, none⟩))) = some (2, 0x202, 0x6A) := by decide

/-- R192, R212: a ROM loaded after a cycle is erased by the reset that follows, here in a later turn; then T-KT-15. -/
theorem test_rom_before_reset : look (fun t => (t.byteAt 0x200, t.lateRom))
      (step (turn ((word 0).setReport .running) [.loadRom [0x6A, 0x02]] none)) = some (0x6A, true) ∧
    look faultView (step (turn (((word 0x6A02).setReport .running).setLateRom true) [.reset] (some ⟨none, none⟩))) =
      some ⟨.halted, 1, 0, 0x200, some .halted⟩ := by decide

/-- R190: a tick after the last cycle, then a read of `DT`; no cycle runs. -/
theorem test_tick_without_cycle : look (fun t => (t.dt, t.reg 10, t.pc)) (step (turn ((word 0x6A02).setDt 2) [.tick] none)) =
    some (1, 0, 0x200) := by decide

/-! Witnesses: for each obligation with hypotheses, states and operands that meet them, clause by clause, at the edge of a range
where the clause has one. -/

theorem witness_sourceRoundTrip : SourceInstr.wellFormed ⟨.load, [15, 0xFF]⟩ = true ∧ SourceInstr.wellFormed ⟨.shl, [15]⟩ = true ∧
    Mnemonic.ignoresY .shl = true ∧ decode 0x6FFF = .ok (.load 15 0xFF) ∧ decode 0x5AB8 = .error (.unrecognized 0x5AB8) := by decide

theorem witness_decodeFollowsOpcodeMap : decode 0x8AB6 = .ok (.shr 10) ∧ decode 0x8AB8 = .error (.unrecognized 0x8AB8) := by decide

theorem witness_encodeInvertsDecode : decode 0x8ABE = .ok (.shl 10) ∧ Instr.mnemonic (.shl 10) = .shl ∧
    decode 0x8AB7 = .ok (.subb 10 11) ∧ Instr.mnemonic (.subb 10 11) ≠ .shr ∧ Instr.mnemonic (.subb 10 11) ≠ .shl ∧
    decode 0x8AB6 = .ok (.shr 10) ∧ Instr.mnemonic (.shr 10) = .shr := by decide

theorem witness_instructionsAreTwoBytes : decodeBytes (0x6A :: 0x02 :: [0x77]) = .ok (.load 10 2, [0x77]) ∧
    ([] : List Byte).length < 2 ∧ ([0x6A] : List Byte).length < 2 := by decide

theorem witness_stepRunsDecodedInstruction : (word 0x6A02).nextDrive.input ≠ none ∧ (word 0x6A02).lateRom = false ∧
    (word 0x6A02).hostPhase = .ok (word 0x6A02) ∧ (word 0x6A02).status = .running ∧
    (word 0x6A02).pc.toNat ≤ 4094 ∧
    decode (wordOfBytes ((word 0x6A02).byteAt (word 0x6A02).pc.toNat) ((word 0x6A02).byteAt ((word 0x6A02).pc.toNat + 1))) =
      .ok (.load 10 2) ∧ (word 0x6A02).host = [] := by decide

theorem witness_fetchIsBigEndian : ((word 0).setPc 4094).pc.toNat ≤ 4094 ∧ ((word 0).setPc 4095).pc.toNat = 4095 ∧
    4095 < ((word 0).setPc 4096).pc.toNat ∧ ((word 0).setPc 4096).status = .running ∧
    ((word 0).setPc 4096).fetch = .error ⟨.memoryOutOfRange, 4096⟩ := by decide

theorem witness_haltedCycleChangesNothing : ((word 0x6A02).raise ⟨.stackUnderflow, 0⟩).status = .halted := by decide

theorem witness_fetchAndDecodeFaultsHalt : ((word 0).setPc 4095).status = .running ∧ 4095 ≤ ((word 0).setPc 4095).pc.toNat ∧
    4095 ≤ ((word 0).setPc 0x10FE).pc.toNat ∧ (word 0x5AB8).status = .running ∧ (word 0x5AB8).pc.toNat ≤ 4094 ∧
    (0x5AB8 : Word) = wordOfBytes ((word 0x5AB8).byteAt (word 0x5AB8).pc.toNat) ((word 0x5AB8).byteAt ((word 0x5AB8).pc.toNat + 1)) ∧
    decode 0x5AB8 = .error (.unrecognized 0x5AB8) := by decide

theorem witness_blockRangeRule : (1 ≤ 3 ∧ 4093 + 3 - 1 ≤ 4095) ∧ (1 ≤ 3 ∧ 4095 < 4094 + 3 - 1) ∧ (1 ≤ 1 ∧ 4095 < 4096 + 1 - 1) := by
  decide

theorem witness_blockStoreRule : 4094 + ([1, 2] : List Byte).length ≤ 4096 ∧ 0 < ([1, 2] : List Byte).length ∧
    Memory.wf (word 0).mem := by decide

theorem witness_equalMemoriesAreEqualData : Memory.wf [(0x200, (0x6A : Byte)), (0xFFF, 1)] ∧
    ∀ a, readByte [(0x200, (0x6A : Byte)), (0xFFF, 1)] a = readByte [(0x200, (0x6A : Byte)), (0xFFF, 1)] a :=
  ⟨by decide, fun _ => rfl⟩

theorem witness_storeSeenByNextFetch : ∃ t, ((word 0).setPc 4094).storeBlock 4094 [0x6A, 0x02] = .ok t ∧ t.pc.toNat = 4094 ∧
    4094 ≤ 4094 := ⟨_, rfl, by decide, by decide⟩

theorem witness_jumpSetsPc : ((word 0).setPc 0xFFF).pc.toNat = (0xFFF : Addr12).toNat ∧ 4094 < (0xFFF : Addr12).toNat := by decide

theorem witness_callPushesOwnAddress : ((word 0).setSp 14).sp ≠ 15 ∧ ((word 0).setSp 15).sp = 15 := by decide

theorem witness_retPopsPushedAddress : ((word 0).setSp 1).sp ≠ 0 ∧ (word 0).sp = 0 := by decide

/-- T-CT-13: a taken skip at 0xFFC. -/
theorem witness_conditionalSkipsAdvance : ∃ t, exec (.ske 0 0) ((word 0).setPc 0xFFC) = .next t ∧ 4094 < t.pc.toNat :=
  ⟨_, rfl, by decide⟩

theorem witness_jumpiAddsRegisterZero : 4095 < (0xF01 : Addr12).toNat + ((regs 0 [(0, 0xFF)]).reg 0).toNat := by decide

theorem witness_callsThenReturnsRestore : ((word 0).setSp 13).sp.toNat + ([0x300, 0x400] : List Addr12).length ≤ 15 ∧
    ((word 0).setSp 14).sp.toNat + ([0x300, 0x400] : List Addr12).length = 16 := by decide

/-- ADDR, SUB, SUBB and the shifts: `x` other than 15, and 15. -/
theorem witness_flagRegisterAsDestination : (14 : Nibble) ≠ 15 ∧ (15 : Nibble) = 15 := by decide

theorem witness_randMasksDraw : ({ word 0xC10F with input := ⟨none, some 0xA7⟩ } : State).input.draw = some 0xA7 ∧
    (word 0xC10F).input.draw = none ∧ (0x0F : Byte).getLsbD 4 = false := by decide

theorem witness_addiWrapsIndex : 0xFFF < ((regs 0 [(0, 1)]).setI 0xFFF).i.toNat + ((regs 0 [(0, 1)]).reg 0).toNat ∧
    ((regs 0 [(0, 0xFE)]).setI 0xF01).i.toNat + ((regs 0 [(0, 0xFE)]).reg 0).toNat ≤ 0xFFF := by decide

theorem witness_bcdStoresDigits : ((word 0).setI 4093).base + 2 ≤ 4095 := by decide

theorem witness_pushStoresRegisters : ((word 0).setI 4080).base + (15 : Nibble).toNat ≤ 4095 ∧ (15 : Nibble).toNat ≤ (15 : Nibble).toNat := by
  decide

theorem witness_popLoadsRegisters : ((word 0).setI 4095).i.toNat + (0 : Nibble).toNat ≤ 4095 ∧ (0 : Nibble).toNat ≤ (0 : Nibble).toNat ∧
    (0 : Nibble).toNat < (1 : Nibble).toNat := by decide

theorem witness_blockAccessFaults : 4095 < ((word 0).setI 4094).i.toNat + 2 ∧ 4095 < ((word 0).setI 4095).i.toNat + (1 : Nibble).toNat ∧
    1 ≤ (1 : Nibble).toNat ∧ 4095 < ((word 0).setI 4096).i.toNat + (1 : Nibble).toNat - 1 := by decide

/-- Nothing drawn at `I = 0xFFF`; then the first font byte drawn where cell (0, 0) holds 1, and on a clear screen. -/
theorem witness_drawFlipsCoveredCells : (0 : Nibble).toNat = 0 ∧ ((word 0).setI 4095).i.toNat + (1 : Nibble).toNat - 1 ≤ 4095 ∧
    ((word 0).setFb [(0, 1)]).i.toNat + (1 : Nibble).toNat - 1 ≤ 4095 ∧
    (∃ col < 64, ∃ row < 32, spriteCovers ((word 0).setFb [(0, 1)]) (((word 0).setFb [(0, 1)]).reg 0).toNat
        (((word 0).setFb [(0, 1)]).reg 0).toNat (1 : Nibble).toNat col row = true ∧
      ((word 0).setFb [(0, 1)]).pixelAt col row = 1) ∧
    ¬ ∃ col < 64, ∃ row < 32, spriteCovers (word 0) ((word 0).reg 0).toNat ((word 0).reg 0).toNat (1 : Nibble).toNat col row = true ∧
      (word 0).pixelAt col row = 1 := by
  refine ⟨by decide, by decide, by decide, ⟨0, by decide, 0, by decide, by decide, by decide⟩, ?_⟩
  rintro ⟨col, _, row, _, _, h⟩
  exact absurd h (by simp [word, State.withFetchWord, State.pixelAt, pixel, State.setMem, State.reset, cellsRead])

theorem witness_drawTwiceRestores : (1 : Nibble) ≠ 15 ∧ (2 : Nibble) ≠ 15 ∧ (word 0).i.toNat + (1 : Nibble).toNat - 1 ≤ 4095 ∧
    ∃ col < 64, ∃ row < 32, spriteCovers (word 0) ((word 0).reg 1).toNat ((word 0).reg 2).toNat (1 : Nibble).toNat col row = true ∧
      (word 0).pixelAt col row = 0 :=
  ⟨by decide, by decide, by decide, 0, by decide, 0, by decide, by decide, by decide⟩

theorem witness_keydTakesEventOrWaits : ({ word 0xF20A with input := ⟨some 7, none⟩ } : State).input.keyEvent = some 7 ∧
    (word 0xF20A).input.keyEvent = none := by decide

theorem witness_executorNeverTicks : (∃ t, cycle (regs 0xF115 [(1, 5)]) = .next t ∧ t.dt ≠ (regs 0xF115 [(1, 5)]).dt) ∧
    (∃ t, cycle (regs 0xF118 [(1, 5)]) = .next t ∧ t.st ≠ (regs 0xF118 [(1, 5)]).st) ∧
    (∀ x, Instr.cls ≠ .moved x) ∧ (∀ x, Instr.cls ≠ .loadd x) ∧ (∀ x, Instr.cls ≠ .loads x) ∧
    ∃ t, exec (.moved 1) (word 0) = .next t :=
  ⟨⟨_, rfl, by decide⟩, ⟨_, rfl, by decide⟩, by simp, by simp, by simp, _, rfl⟩

/-- A completing instruction, a waiting one and a faulting one. -/
theorem witness_pcDiscipline : (∃ t, exec (.jump 0xAAA) (word 0) = .next t ∧ t.report = some .running) ∧
    (∃ t, exec (.keyd 2) (word 0) = .next t ∧ t.report = some .needsInput) ∧
    (∃ t, exec .ret (word 0) = .next t ∧ t.report = some .halted) ∧
    ∃ t, (word 0).sp ≠ 15 ∧ exec (.call 0x300) (word 0) = .next t :=
  ⟨⟨_, rfl, rfl⟩, ⟨_, rfl, rfl⟩, ⟨_, rfl, rfl⟩, _, by decide, rfl⟩

/-- CALL, RET, BCD, PUSH, ADDI at the sum 0xFFF, KEYD without an event: each at an edge of its range. -/
theorem witness_instructionsWriteOnlyTheirSets :
    (faultOf (.call 0x300) ((word 0).setSp 14) = none ∧ ∃ t, exec (.call 0x300) ((word 0).setSp 14) = .next t) ∧
    (faultOf .ret ((word 0).setSp 1) = none ∧ ∃ t, exec .ret ((word 0).setSp 1) = .next t) ∧
    (faultOf (.bcd 1) ((word 0).setI 4093) = none ∧ ∃ t, exec (.bcd 1) ((word 0).setI 4093) = .next t) ∧
    (faultOf (.push 0) ((word 0).setI 4095) = none ∧ ∃ t, exec (.push 0) ((word 0).setI 4095) = .next t) ∧
    (((word 0).setI 0xFFF).i.toNat + (((word 0).setI 0xFFF).reg 1).toNat ≤ 0xFFF ∧
      ∃ t, exec (.addi 1) ((word 0).setI 0xFFF) = .next t) ∧
    (word 0).input.keyEvent = none ∧ ∃ t, exec (.keyd 1) (word 0) = .next t :=
  ⟨⟨by decide, _, rfl⟩, ⟨by decide, _, rfl⟩, ⟨by decide, _, rfl⟩, ⟨by decide, _, rfl⟩, ⟨by decide, _, rfl⟩, rfl, _, rfl⟩

theorem witness_faultsExactlyWhereListed : faultOf (.push 1) ((word 0).setI 4095) = some ⟨.memoryOutOfRange, 4096⟩ ∧
    faultOf (.push 0) ((word 0).setI 4095) = none := by decide

/-- A turn with no ROM load; one that drives no cycle, with a ROM; a ROM one byte too long; a late ROM and a cycle. -/
theorem witness_everyCycleHasSuccessor : ((word 0).lateRom = false ∧ ∀ rom, HostOp.loadRom rom ∉ (word 0).nextDrive.before) ∧
    ((turn (word 0) [.loadRom [0]] none).nextDrive.input = none ∧
      ∀ rom, HostOp.loadRom rom ∈ (turn (word 0) [.loadRom [0]] none).nextDrive.before → rom.length ≤ 3584) ∧
    step (turn State.reset [.loadRom (List.replicate 3585 0)] none) = .refused (.romTooLong 3585) ∧
    step (turn ((word 0).setReport .running) [.loadRom [0]] (some ⟨none, none⟩)) = .refused .romLoadAfterFirstCycle :=
  ⟨⟨rfl, by simp [word, State.withFetchWord, State.nextDrive]⟩, ⟨rfl, by simp [turn, State.nextDrive]⟩, by
    simp only [step, turn, State.hostPhase, State.hostGap, State.nextDrive, State.hostOps, State.hostOp, State.loadRom,
      List.headD_cons, List.length_replicate]
    rfl, rfl⟩

theorem witness_inv : Inv (word 0x6A02) where
  memory := by decide
  frameBuffer := by decide
  index := by decide
  pc := by decide
  slotZero := by decide
  slots := by decide

theorem witness_stepKeepsInv : ∃ t, step (word 0x6A02) = .next t := ⟨_, rfl⟩

theorem witness_reachable : ∃ t, step State.reset = .next t ∧ Reachable t := ⟨_, rfl, .next _ _ (.start []) rfl⟩

theorem witness_stepKeepsFaultRecord : FaultRecorded (word 0x5AB8) ∧ FaultRecorded ((word 0).raise ⟨.stackOverflow, 15⟩) ∧
    ∃ t, step (word 0x5AB8) = .next t := ⟨by unfold FaultRecorded; decide, by unfold FaultRecorded; decide, _, rfl⟩

theorem witness_haltedUntilReset : ((word 0x6A02).raise ⟨.stackOverflow, 15⟩).status = .halted ∧
    HostOp.reset ∉ ((word 0x6A02).raise ⟨.stackOverflow, 15⟩).nextDrive.before ∧
    (∀ rom, HostOp.loadRom rom ∉ ((word 0x6A02).raise ⟨.stackOverflow, 15⟩).nextDrive.before) ∧
    ((word 0x6A02).raise ⟨.stackOverflow, 15⟩).nextDrive.input ≠ none ∧
    ∃ t, step ((word 0x6A02).raise ⟨.stackOverflow, 15⟩) = .next t :=
  ⟨by decide, by decide, by simp [word, State.withFetchWord, State.nextDrive, State.raise], by decide, _, rfl⟩

/-- T-CT-1's word `120C`, here at 0x20C. -/
theorem witness_atRestIsFixedPoint : AtRest ((bytes (word 0) 0x20C [0x12, 0x0C]).setPc 0x20C) := by
  unfold AtRest; decide

/-- The first and the last byte of the font and the bytes around it. -/
theorem witness_resetValues : 0 < fontBytes.length ∧ 79 < fontBytes.length ∧ fontBase + 80 ≤ 80 := by decide

theorem witness_hostOperationRules : (turn (word 0) [.tick, .clearDirty] none).host = ⟨[.tick, .clearDirty], none⟩ :: [] ∧
    (∃ t, ({ turn (word 0) [.tick, .clearDirty] none with host := [] } : State).hostOps [.tick, .clearDirty] = .ok t) ∧
    (turn (word 0) [.tick] none).host = ⟨[.tick], none⟩ :: [] := ⟨rfl, ⟨_, rfl⟩, rfl⟩

theorem witness_romLoadRule : State.reset.report = none ∧ (List.replicate 3584 (0x6A : Byte)).length ≤ 3584 ∧
    3584 < (List.replicate 3585 (0x6A : Byte)).length ∧ ([0x6A, 0x02] : List Byte) = 0x6A :: 0x02 :: [] ∧ State.reset.pc = 0x200 ∧
    ((word 0).setReport .running).report ≠ none ∧
    (turn ((word 0).setLateRom true) [] (some ⟨none, none⟩)).host = ⟨[], some ⟨none, none⟩⟩ :: [] ∧
    (turn ((word 0).setLateRom true) [] (some ⟨none, none⟩)).lateRom = true ∧
    (turn ((word 0).setLateRom true) [] (some ⟨none, none⟩)).status = .running :=
  ⟨rfl, by rw [List.length_replicate], by rw [List.length_replicate]; decide, rfl, rfl, by decide, rfl, rfl, rfl⟩

/-- A tick and then a key event; no event; a late ROM in a halted executor; an operation refused. -/
theorem witness_keyEventReachesItsCycle :
    (turn (word 0) [.tick] (some ⟨some 9, none⟩)).host = ⟨[.tick], some ⟨some 9, none⟩⟩ :: [] ∧
    (∃ u, ({ turn (word 0) [.tick] (some ⟨some 9, none⟩) with host := [] } : State).hostOps [.tick] = .ok u ∧ u.lateRom = false) ∧
    (supply (word 0) 9).host = ⟨[], some ⟨none, some 9⟩⟩ :: [] ∧
    (∃ u, (word 0).hostOp .tick = .ok u) ∧ ((word 0).raise ⟨.stackOverflow, 15⟩).status = .halted ∧
    (word 0).hostOp (.loadRom (List.replicate 3585 0)) = .error (.romTooLong 3585) :=
  ⟨rfl, ⟨_, rfl, rfl⟩, rfl, ⟨_, rfl⟩, rfl, by
    simp only [State.hostOp, State.loadRom, List.length_replicate]
    rfl⟩

end Sys2Proof.Tests
end

section
/-! SUPPORT. Frames: what each update of the state leaves unchanged, and how the frames of two updates in a row compose. The row of
an instruction in the read and write table (R39) is then the frames of its updates, joined. -/

namespace Sys2Proof.Machine

theorem Part.same_refl (p : Part) (s : State) : p.same s s := by
  cases p <;> simp [Part.same]

theorem Part.same_trans (p : Part) {s t u : State} (h : p.same s t) (h' : p.same t u) : p.same s u := by
  cases p <;> simp_all [Part.same]

theorem FrameBut.refl (s : State) : FrameBut s s [] [] := ⟨fun _ _ => rfl, fun p _ => p.same_refl s⟩

theorem FrameBut.mono {s t : State} {R R' : List Nibble} {P P' : List Part} (h : FrameBut s t R P) (hR : R ⊆ R') (hP : P ⊆ P') :
    FrameBut s t R' P' :=
  ⟨fun r hr => h.1 r fun hm => hr (hR hm), fun p hp => h.2 p fun hm => hp (hP hm)⟩

/-- One change after the other: what neither touches is unchanged. -/
theorem FrameBut.seq {s t u : State} {R R' : List Nibble} {P P' : List Part} (h : FrameBut s t R P) (h' : FrameBut t u R' P') :
    FrameBut s u (R ++ R') (P ++ P') := by
  have h1 := h.mono (List.subset_append_left R R') (List.subset_append_left P P')
  have h2 := h'.mono (List.subset_append_right R R') (List.subset_append_right P P')
  exact ⟨fun r hr => (h2.1 r hr).trans (h1.1 r hr), fun p hp => p.same_trans (h1.2 p hp) (h2.2 p hp)⟩

section
variable (s : State)

theorem State.setReg_frame (x : Nibble) (b : Byte) : FrameBut s (s.setReg x b) [x] [] :=
  ⟨fun r hr => by rw [State.setReg_reg, if_neg (by simpa using hr)], fun p _ => by cases p <;> simp [Part.same]⟩

theorem State.setFlag_frame (b : Bool) : FrameBut s (s.setFlag b) [15] [] := s.setReg_frame flagReg (flagByte b)

theorem State.setPc_frame (w : Word) : FrameBut s (s.setPc w) [] [] :=
  ⟨fun _ _ => rfl, fun p _ => by cases p <;> simp [Part.same]⟩

theorem State.nextInsn_frame : FrameBut s s.nextInsn [] [] := s.setPc_frame (s.pc + 2)

theorem State.skipIf_frame (c : Bool) : FrameBut s (s.skipIf c) [] [] := s.skipIf_eq c ▸ s.setPc_frame _

theorem State.setReport_frame (r : Report) : FrameBut s (s.setReport r) [] [] :=
  ⟨fun _ _ => rfl, fun p _ => by cases p <;> simp [Part.same]⟩

theorem State.setI_frame (w : Word) : FrameBut s (s.setI w) [] [.index] :=
  ⟨fun _ _ => rfl, fun p hp => by cases p <;> simp_all [Part.same]⟩

theorem State.setSp_frame (j : BitVec 4) : FrameBut s (s.setSp j) [] [.stack] :=
  ⟨fun _ _ => rfl, fun p hp => by cases p <;> simp_all [Part.same]⟩

theorem State.setSlot_frame (j : BitVec 4) (w : Word) : FrameBut s (s.setSlot j w) [] [.stack] :=
  ⟨fun _ _ => rfl, fun p hp => by cases p <;> simp_all [Part.same]⟩

theorem State.setDt_frame (b : Byte) : FrameBut s (s.setDt b) [] [.delayTimer] :=
  ⟨fun _ _ => rfl, fun p hp => by cases p <;> simp_all [Part.same]⟩

theorem State.setSt_frame (b : Byte) : FrameBut s (s.setSt b) [] [.soundTimer] :=
  ⟨fun _ _ => rfl, fun p hp => by cases p <;> simp_all [Part.same]⟩

theorem State.setFb_frame (fb : List Host.Cell) : FrameBut s (s.setFb fb) [] [.frameBuffer] :=
  ⟨fun _ _ => rfl, fun p hp => by cases p <;> simp_all [Part.same]⟩

theorem State.setDirty_frame (b : Bool) : FrameBut s (s.setDirty b) [] [.dirty] :=
  ⟨fun _ _ => rfl, fun p hp => by cases p <;> simp_all [Part.same]⟩

theorem State.setMem_frame (m : List Host.Cell) : FrameBut s (s.setMem m) [] [.memory] :=
  ⟨fun _ _ => rfl, fun p hp => by cases p <;> simp_all [Part.same]⟩

theorem State.countDraw_frame : FrameBut s s.countDraw [] [.draws] :=
  ⟨fun _ _ => rfl, fun p hp => by cases p <;> simp_all [Part.same]⟩

/-- A block of registers loaded touches the registers of the block only. -/
theorem State.setRegsFrom_frame (bytes : List Byte) (k : Nat) :
    FrameBut s (s.setRegsFrom k bytes) ((List.range' k bytes.length).map (BitVec.ofNat 4)) [] := by
  induction bytes generalizing s k with
  | nil => exact .refl s
  | cons b bs ih => exact (s.setReg_frame _ b).seq (ih _ (k + 1))

/-- A block of bytes stored leaves every byte outside the block. -/
theorem State.setMem_writeBytes_outside (base : Nat) (bytes : List Byte) :
    MemoryFrameOutside s (s.setMem (writeBytes s.mem base bytes)) base bytes.length := fun a ha => by
  rw [State.setMem_byteAt, readByte_writeBytes, if_neg ha]
  rfl

end

end Sys2Proof.Machine
end

section
/-! SUPPORT. How an instruction ends. `exec_ends` says once what the execute step of every instruction can do to the report, `PC`
and the rest of the state. -/

namespace Sys2Proof.Machine

/-! The listed faults (R177) against the checks the instructions make. -/

/-- The range check of an access from `I` on (R144), in the terms of the list of faults. -/
theorem rangeFault_base (s : State) (m : Nat) :
    rangeFault s.base m = if m ≠ 0 ∧ 4095 < s.i.toNat + m - 1 then some ⟨.memoryOutOfRange, lowestInvalid s⟩ else none := by
  rcases rangeFault_cases s.base m with ⟨hfit, h⟩ | ⟨h0, hout, h⟩
  · rw [h, if_neg (by simp only [State.base] at hfit; omega)]
  · have hinfo : outOfRange (if s.base < 4096 then 4096 else s.base) = ⟨.memoryOutOfRange, lowestInvalid s⟩ := by
      unfold outOfRange lowestInvalid State.base
      by_cases hi : s.i.toNat < 4096
      · rw [if_pos hi, if_neg (by omega)]
        rfl
      · rw [if_neg hi, if_pos (by omega), BitVec.ofNat_toNat, BitVec.setWidth_eq]
    rw [h, hinfo, if_pos (by simp only [State.base] at hout; omega)]

theorem faultOf_bcd (x : Nibble) (s : State) : faultOf (.bcd x) s = rangeFault s.base 3 := by
  simp [faultOf, rangeFault_base]

theorem faultOf_push (x : Nibble) (s : State) : faultOf (.push x) s = rangeFault s.base (x.toNat + 1) := by
  simp [faultOf, rangeFault_base]

theorem faultOf_pop (x : Nibble) (s : State) : faultOf (.pop x) s = rangeFault s.base (x.toNat + 1) := faultOf_push x s

theorem faultOf_draw (x y n : Nibble) (s : State) : faultOf (.draw x y n) s = rangeFault s.base n.toNat := by
  simp [faultOf, rangeFault_base, Nat.one_le_iff_ne_zero]

/-! A checked block by its range check (R144). -/

section
variable {s : State} {base n : Nat} {bytes : List Byte} {f : MachineFault}

theorem loadBlock_fault (h : rangeFault base n = some f) : s.loadBlock base n = .error f := by
  rw [State.loadBlock, h]

theorem loadBlock_room (h : rangeFault base n = none) : s.loadBlock base n = .ok (readBytes s.mem base n) := by
  rw [State.loadBlock, h]

theorem storeBlock_fault (h : rangeFault base bytes.length = some f) : s.storeBlock base bytes = .error f := by
  rw [State.storeBlock, h]

theorem storeBlock_room (h : rangeFault base bytes.length = none) :
    s.storeBlock base bytes = .ok (s.setMem (writeBytes s.mem base bytes)) := by
  rw [State.storeBlock, h]

end

/-! The three ends of an instruction. -/

/-- KEYD with no key event to take (R163): the one instruction that waits. -/
def waitsForKey : Instr → State → Bool
  | .keyd _, s => s.input.keyEvent.isNone
  | _, _ => false

theorem waitsForKey_iff (i : Instr) (s : State) : waitsForKey i s = true ↔ (∃ x, i = .keyd x) ∧ s.input.keyEvent = none := by
  cases i <;> simp [waitsForKey]

/-- From `s` the instruction has gone all the way to `t`: `PC` as R22 says, nothing outside its row of R39 changed. -/
structure Completes (i : Instr) (s t : State) : Prop where
  report : t.report = some .running
  pc : t.pc = pcAfter i s
  frame : FrameBut s t (regsWritten i) (partsWritten i)
  narrow : WritesNarrowly i s t

/-- What the execute step of an instruction can answer: the fault listed for it, the wait of KEYD, or completion. -/
inductive Ends (i : Instr) (s : State) : Host.Outcome State Fault Refusal → Prop where
  | faults (f : MachineFault) (hf : faultOf i s = some f) : Ends i s (.next (s.raise f))
  | waits (hf : faultOf i s = none) (hw : waitsForKey i s = true) : Ends i s (.next (s.setReport .needsInput))
  | completes (t : State) (hf : faultOf i s = none) (hw : waitsForKey i s = false) (ht : Completes i s t) : Ends i s (.next t)

/-- The end of an instruction that cannot fault: its row of R39 and where `PC` goes, read off what it does before it reports. -/
theorem Ends.of_complete {i : Instr} {s u : State} (hf : faultOf i s = none) (hw : waitsForKey i s = false)
    (hpc : u.pc = pcAfter i s) (hframe : FrameBut s u (regsWritten i) (partsWritten i))
    (hnarrow : WritesNarrowly i s (u.setReport .running)) : Ends i s u.complete :=
  .completes _ hf hw ⟨rfl, hpc, (hframe.seq (u.setReport_frame .running)).mono (by simp) (by simp), hnarrow⟩

/-- The same of an instruction whose last act is to advance `PC`. -/
theorem Ends.of_nextInsn {i : Instr} {s u : State} (hf : faultOf i s = none) (hw : waitsForKey i s = false)
    (hpc : u.pc + 2 = pcAfter i s) (hframe : FrameBut s u (regsWritten i) (partsWritten i))
    (hnarrow : WritesNarrowly i s (u.nextInsn.setReport .running)) : Ends i s u.nextInsn.complete :=
  .of_complete hf hw hpc ((hframe.seq u.nextInsn_frame).mono (by simp) (by simp)) hnarrow

/-! Where `PC` goes (R22, R107, R108). -/

theorem zextAddr_eq_ofNat (nnn : Addr12) : zextAddr nnn = BitVec.ofNat 16 nnn.toNat := (BitVec.ofNat_toNat 16 nnn).symm

theorem zextAddr_add_zextByte (nnn : Addr12) (b : Byte) : zextAddr nnn + zextByte b = BitVec.ofNat 16 (nnn.toNat + b.toNat) := by
  rw [BitVec.ofNat_add, BitVec.ofNat_toNat, BitVec.ofNat_toNat]
  rfl

theorem State.skipIf_beq_pc (s : State) (a b : Byte) : (s.skipIf (a == b)).pc = if a = b then s.pc + 4 else s.pc + 2 := by
  simp [State.skipIf_eq]

theorem State.skipIf_bne_pc (s : State) (a b : Byte) : (s.skipIf (a != b)).pc = if a = b then s.pc + 2 else s.pc + 4 := by
  simp [State.skipIf_eq]

@[simp] theorem State.setRegsFrom_pc (s : State) (k : Nat) (bytes : List Byte) : (s.setRegsFrom k bytes).pc = s.pc := by
  rw [State.setRegsFrom_eq]

/-! The instructions that can fault, wait, or write a register on a condition. -/

theorem execRet_ends (s : State) : Ends .ret s (execRet s) := by
  by_cases h : s.sp = 0
  · rw [execRet, if_pos h, h]
    exact .faults _ (by simp [faultOf, h, zextSp])
  · rw [execRet, if_neg h]
    have hsp : s.sp.toNat ≠ 0 := fun e => h (BitVec.eq_of_toNat_eq e)
    exact .of_complete (if_neg hsp) rfl rfl ((s.setPc_frame _).seq (State.setSp_frame _ _)) fun _ => rfl

theorem execCall_ends (nnn : Addr12) (s : State) : Ends (.call nnn) s (execCall nnn s) := by
  by_cases h : s.sp = 15
  · rw [execCall, if_pos h, h]
    exact .faults _ (by simp [faultOf, h, zextSp])
  · rw [execCall, if_neg h]
    have hsp : s.sp.toNat ≠ 15 := fun e => h (BitVec.eq_of_toNat_eq e)
    have hframe := ((s.setSp_frame (s.sp + 1)).seq (State.setSlot_frame _ (s.sp + 1) s.pc)).seq
      (State.setPc_frame _ (zextAddr nnn))
    exact .of_complete (if_neg hsp) rfl (zextAddr_eq_ofNat nnn) (hframe.mono (by simp) (by simp [partsWritten]))
      fun j hj => (State.setSlot_slot _ _ _ j).trans (if_neg hj)

theorem execBcd_ends (x : Nibble) (s : State) : Ends (.bcd x) s (execBcd x s) := by
  cases h : rangeFault s.base 3 with
  | some f =>
    rw [execBcd, storeBlock_fault h]
    exact .faults f ((faultOf_bcd x s).trans h)
  | none =>
    rw [execBcd, storeBlock_room h]
    exact .of_nextInsn ((faultOf_bcd x s).trans h) rfl rfl (s.setMem_frame _)
      (s.setMem_writeBytes_outside s.base (bcdDigits (s.reg x)))

theorem execPush_ends (x : Nibble) (s : State) : Ends (.push x) s (execPush x s) := by
  have hlen := regsFrom_length s 0 (x.toNat + 1)
  cases h : rangeFault s.base (x.toNat + 1) with
  | some f =>
    rw [execPush, storeBlock_fault (hlen.symm ▸ h)]
    exact .faults f ((faultOf_push x s).trans h)
  | none =>
    rw [execPush, storeBlock_room (hlen.symm ▸ h)]
    have hout := s.setMem_writeBytes_outside s.base (s.regsFrom 0 (x.toNat + 1))
    rw [hlen] at hout
    exact .of_nextInsn ((faultOf_push x s).trans h) rfl rfl (s.setMem_frame _) hout

theorem execPop_ends (x : Nibble) (s : State) : Ends (.pop x) s (execPop x s) := by
  cases h : rangeFault s.base (x.toNat + 1) with
  | some f =>
    rw [execPop, loadBlock_fault h]
    exact .faults f ((faultOf_pop x s).trans h)
  | none =>
    rw [execPop, loadBlock_room h]
    have hframe := s.setRegsFrom_frame (readBytes s.mem s.base (x.toNat + 1)) 0
    rw [readBytes_length, ← List.range_eq_range'] at hframe
    exact .of_nextInsn ((faultOf_pop x s).trans h) rfl (by rw [State.setRegsFrom_pc]; rfl) hframe trivial

theorem execDraw_ends (x y n : Nibble) (s : State) : Ends (.draw x y n) s (execDraw x y n s) := by
  cases h : rangeFault s.base n.toNat with
  | some f =>
    rw [execDraw, loadBlock_fault h]
    exact .faults f ((faultOf_draw x y n s).trans h)
  | none =>
    rw [execDraw, loadBlock_room h]
    exact .of_nextInsn ((faultOf_draw x y n s).trans h) rfl rfl
      (((s.setFb_frame _).seq (State.setFlag_frame _ _)).seq (State.setDirty_frame _ true)) trivial

theorem execKeyd_ends (x : Nibble) (s : State) : Ends (.keyd x) s (execKeyd x s) := by
  cases h : s.input.keyEvent with
  | none =>
    rw [execKeyd, h]
    exact .waits rfl (by simp [waitsForKey, h])
  | some k =>
    rw [execKeyd, h]
    exact .of_nextInsn rfl (by simp [waitsForKey, h]) rfl (s.setReg_frame x k) fun h0 => absurd (h.symm.trans h0) (by simp)

theorem execAddi_ends (x : Nibble) (s : State) : Ends (.addi x) s (execAddi x s) := by
  by_cases h : indexWraps s.i (s.reg x) = true
  · rw [execAddi, if_pos h]
    have hwrap : ¬ s.i.toNat + (s.reg x).toNat ≤ 0xFFF := by simpa [indexWraps] using h
    exact .of_nextInsn rfl rfl rfl ((s.setI_frame _).seq (State.setFlag_frame _ true)) fun hle => absurd hle hwrap
  · rw [execAddi, if_neg h]
    exact .of_nextInsn rfl rfl rfl ((s.setI_frame _).mono (by simp) (by simp [partsWritten])) fun _ => rfl

/-- Everything the execute step of an instruction can do: raise the fault listed for it, wait for a key, or complete within its row. -/
theorem exec_ends (i : Instr) (s : State) : Ends i s (exec i s) := by
  cases i with
  | cls => exact .of_nextInsn rfl rfl rfl ((s.setFb_frame []).seq (State.setDirty_frame _ true)) trivial
  | ret => exact execRet_ends s
  | jump nnn => exact .of_complete rfl rfl (zextAddr_eq_ofNat nnn) (s.setPc_frame _) trivial
  | call nnn => exact execCall_ends nnn s
  | jumpi nnn => exact .of_complete rfl rfl (zextAddr_add_zextByte nnn (s.reg 0)) (s.setPc_frame _) trivial
  | ske x nn => exact .of_complete rfl rfl (s.skipIf_beq_pc (s.reg x) nn) (s.skipIf_frame _) trivial
  | skne x nn => exact .of_complete rfl rfl (s.skipIf_bne_pc (s.reg x) nn) (s.skipIf_frame _) trivial
  | skre x y => exact .of_complete rfl rfl (s.skipIf_beq_pc (s.reg x) (s.reg y)) (s.skipIf_frame _) trivial
  | jneq x y => exact .of_complete rfl rfl (s.skipIf_bne_pc (s.reg x) (s.reg y)) (s.skipIf_frame _) trivial
  | skpr x => exact .of_complete rfl rfl (s.skipIf_beq_pc s.key (s.reg x)) (s.skipIf_frame _) trivial
  | skup x => exact .of_complete rfl rfl (s.skipIf_bne_pc s.key (s.reg x)) (s.skipIf_frame _) trivial
  | load x _ | add x _ | move x _ | or x _ | and x _ | xor x _ | moved x =>
    exact .of_nextInsn rfl rfl rfl (s.setReg_frame x _) trivial
  | addr x _ | sub x _ | subb x _ =>
    exact .of_nextInsn rfl rfl rfl ((s.setReg_frame x _).seq (State.setFlag_frame _ _)) trivial
  | shr x | shl x =>
    exact .of_nextInsn rfl rfl rfl
      (((s.setFlag_frame _).seq (State.setReg_frame _ x _)).mono (by simp [regsWritten]) (by simp)) trivial
  | rand x _ => exact .of_nextInsn rfl rfl rfl ((s.setReg_frame x _).seq (State.countDraw_frame _)) trivial
  | keyd x => exact execKeyd_ends x s
  | loadd _ => exact .of_nextInsn rfl rfl rfl (s.setDt_frame _) trivial
  | loads _ => exact .of_nextInsn rfl rfl rfl (s.setSt_frame _) trivial
  | loadi _ | ldspr _ => exact .of_nextInsn rfl rfl rfl (s.setI_frame _) trivial
  | addi x => exact execAddi_ends x s
  | bcd x => exact execBcd_ends x s
  | push x => exact execPush_ends x s
  | pop x => exact execPop_ends x s
  | draw x y n => exact execDraw_ends x y n s

end Sys2Proof.Machine
end

section
/-! SUPPORT. The statements of 10_state.md: where each instruction leaves `PC` (R22) and what it writes (R39). -/

namespace Sys2Proof.Machine

theorem not_waitsForKey_of_fault {i : Instr} {s : State} {f : MachineFault} (hf : faultOf i s = some f) :
    ¬ ((∃ x, i = .keyd x) ∧ s.input.keyEvent = none) := by
  rintro ⟨⟨x, rfl⟩, -⟩
  cases hf

/-- CALL with room stores its own address in the slot `SP` then points at (R102, R216). -/
theorem call_slot_sp (nnn : Addr12) (s t : State) (hsp : s.sp ≠ 15) (h : exec (.call nnn) s = .next t) : t.slot t.sp = s.pc := by
  rw [exec, execCall, if_neg hsp] at h
  cases h
  exact (State.setSlot_slot _ _ _ _).trans (if_pos rfl)

/-- The report of an instruction that has ended, and `PC` by it. -/
theorem Ends.pc_and_report {i : Instr} {s t : State} (h : Ends i s (.next t)) :
    (t.report = some .running → t.pc = pcAfter i s) ∧ (t.report ≠ some .running → t.pc = s.pc) ∧
      (t.report = some .needsInput ↔ (∃ x, i = .keyd x) ∧ s.input.keyEvent = none) ∧
      (t.report = some .halted ↔ faultOf i s ≠ none) := by
  cases h with
  | faults f hf => simp [hf, not_waitsForKey_of_fault hf]
  | waits hf hw => simp [hf, ← waitsForKey_iff, hw]
  | completes _ hf hw ht => simp [hf, ← waitsForKey_iff, hw, ht.report, ht.pc]

/-- Settles O46: each of the three ends of an instruction, by `exec_ends`, and the slot CALL writes. -/
theorem pcDiscipline : Obligations.PcDiscipline :=
  ⟨fun i s _ h => Ends.pc_and_report (h ▸ exec_ends i s), call_slot_sp, rfl⟩

/-- Settles O47: of the three ends of an instruction, a fault is excluded, completion keeps to the row, a wait changes the report only. -/
theorem instructionsWriteOnlyTheirSets : Obligations.InstructionsWriteOnlyTheirSets := by
  intro i s t hnone h
  have hends : Ends i s (.next t) := h ▸ exec_ends i s
  cases hends with
  | faults f hf => exact absurd (hnone.symm.trans hf) (by simp)
  | waits _ hw =>
    obtain ⟨⟨x, rfl⟩, -⟩ := (waitsForKey_iff i s).mp hw
    exact ⟨(s.setReport_frame .needsInput).mono (by simp) (by simp), fun _ => ⟨rfl, rfl⟩⟩
  | completes _ _ _ ht => exact ⟨ht.frame, ht.narrow⟩

end Sys2Proof.Machine
end

section
/-! SUPPORT. The statements of 20_memory.md: reading a byte (R52) and fetching a word (R54). -/

namespace Sys2Proof.Machine

/-- The high byte of a word of two bytes is its first byte (R54). -/
theorem wordOfBytes_high (hi lo : Byte) : (wordOfBytes hi lo).extractLsb' 8 8 = hi := BitVec.extractLsb'_append_eq_left

/-- The low byte of a word of two bytes is its second byte (R54). -/
theorem wordOfBytes_low (hi lo : Byte) : (wordOfBytes hi lo).extractLsb' 0 8 = lo := BitVec.extractLsb'_append_eq_right

/-- A Running cycle takes the fault its fetch raises (R54, R176). -/
theorem cycle_of_fetch_error {s : State} {f : MachineFault} (hrun : s.status = .running) (hf : s.fetch = .error f) :
    cycle s = .next (s.raise f) := by
  rw [cycle, hrun, hf]

/-- Settles O10: fetch succeeds up to 4094, and beyond it the fault names the first of the two addresses that is not valid. -/
theorem fetchIsBigEndian : Obligations.FetchIsBigEndian := by
  intro s
  refine ⟨fun h => ⟨_, fetch_ok s h, wordOfBytes_toNat _ _, wordOfBytes_high _ _, wordOfBytes_low _ _⟩, fun h => ?_, fun h => ?_,
    fun _ => cycle_of_fetch_error⟩
  · rw [fetch_error s (by omega), if_pos h]
    rfl
  · rw [fetch_error s (by omega), if_neg (by omega), outOfRange, BitVec.ofNat_toNat, BitVec.setWidth_eq]

/-- Settles O13: the range check of a read, on both sides of 4095. -/
theorem memReadRule : Obligations.MemReadRule := fun s a =>
  ⟨fun h => memRead_error s a (by omega), fun h => memRead_ok s a (by omega)⟩

end Sys2Proof.Machine
end

section
/-! SUPPORT. Words against the templates of the opcode map (R73, R74, R87): the fields a class mask keeps decide which template a
word carries. -/

namespace Sys2Proof

/-! A word as the concatenation of its fields (R71), class by class. -/

theorem word_eq_B (op : Word) : op = opTop op ++ opNnn op := (BitVec.extractLsb'_append_extractLsb' (w := 4) (len := 12)).symm

theorem opX_append_opNn (op : Word) : opX op ++ opNn op = opNnn op :=
  BitVec.extractLsb'_append_extractLsb'_eq_extractLsb' (start₁ := 0) (len₁ := 8) rfl

theorem opY_append_opN (op : Word) : opY op ++ opN op = opNn op :=
  BitVec.extractLsb'_append_extractLsb'_eq_extractLsb' (start₁ := 0) (len₁ := 4) rfl

theorem word_eq_C (op : Word) : op = opTop op ++ opX op ++ opNn op := by
  rw [BitVec.append_assoc, opX_append_opNn]
  exact word_eq_B op

theorem word_eq_D (op : Word) : op = opTop op ++ opX op ++ opY op ++ opN op := by
  rw [BitVec.append_assoc, opY_append_opN]
  exact word_eq_C op

/-! What the mask of an operand class keeps of a word (R87). -/

theorem and_mask_A (op : Word) : op &&& OperandClass.mask .a = op := BitVec.and_allOnes

theorem and_mask_B (op : Word) : op &&& OperandClass.mask .b = opTop op ++ 0#12 :=
  (congrArg (· &&& 0xF000#16) (word_eq_B op)).trans (word_mask_B _ _)

theorem and_mask_D (op : Word) : op &&& OperandClass.mask .d = opTop op ++ 0#4 ++ 0#4 ++ opN op :=
  (congrArg (· &&& 0xF00F#16) (word_eq_D op)).trans (word_mask_D _ _ _ _)

theorem and_mask_E (op : Word) : op &&& OperandClass.mask .e = opTop op ++ 0#4 ++ opNn op :=
  (congrArg (· &&& 0xF0FF#16) (word_eq_C op)).trans (word_mask_E _ _ _)

/-- Every class mask keeps the top nibble, by which the decoder and the disassembler branch. -/
theorem opTop_and_mask (op : Word) (cls : OperandClass) : opTop (op &&& cls.mask) = opTop op := by
  cases cls with
  | a => rw [and_mask_A]
  | b | c | f => exact (congrArg opTop (and_mask_B op)).trans (opTop_B _ _)
  | d => rw [and_mask_D, opTop_D]
  | e => rw [and_mask_E, opTop_C]

/-- A word carries the template of a keyword (R73): under the mask of the keyword's class it is the template. -/
def Mnemonic.Matches (m : Mnemonic) (op : Word) : Prop := op &&& m.operandClass.mask = m.template

/-- A template carries itself: its operand fields are zero (R74). -/
theorem Mnemonic.matches_template (m : Mnemonic) : m.Matches m.template := by
  cases m <;> rfl

theorem Mnemonic.template_and_mask (m : Mnemonic) : m.template &&& m.operandClass.mask = m.template := m.matches_template

/-! Which fields decide that a word carries a template, by the class of the keyword. -/

section
variable {m : Mnemonic} {op : Word}

theorem Mnemonic.Matches.opTop_eq (h : m.Matches op) : opTop op = opTop m.template :=
  (opTop_and_mask op m.operandClass).symm.trans (congrArg opTop h)

theorem Mnemonic.matches_iff_A (ha : m.operandClass = .a) : m.Matches op ↔ op = m.template := by
  rw [Matches, ha, and_mask_A]

/-- Classes B, C and F have one mask. -/
theorem Mnemonic.matches_iff_B (hb : m.operandClass.mask = OperandClass.mask .b) :
    m.Matches op ↔ opTop op = opTop m.template := by
  refine ⟨Matches.opTop_eq, fun ht => ?_⟩
  rw [Matches, hb, and_mask_B, ht, ← and_mask_B, ← hb]
  exact m.matches_template

theorem Mnemonic.matches_iff_D (hd : m.operandClass = .d) :
    m.Matches op ↔ opTop op = opTop m.template ∧ opN op = opN m.template := by
  refine ⟨fun h => ⟨h.opTop_eq, by rw [← h, hd, and_mask_D, opN_D]⟩, fun ⟨ht, hn⟩ => ?_⟩
  rw [Matches, hd, and_mask_D, ht, hn, ← and_mask_D, ← hd]
  exact m.matches_template

theorem Mnemonic.matches_iff_E (he : m.operandClass = .e) :
    m.Matches op ↔ opTop op = opTop m.template ∧ opNn op = opNn m.template := by
  refine ⟨fun h => ⟨h.opTop_eq, by rw [← h, he, and_mask_E, opNn_C]⟩, fun ⟨ht, hnn⟩ => ?_⟩
  rw [Matches, he, and_mask_E, ht, hnn, ← and_mask_E, ← he]
  exact m.matches_template

end

end Sys2Proof
end

section
/-! SUPPORT. The decoder and the disassembler both go by the template a word carries (R73, R87), so they agree on every word. -/

namespace Sys2Proof.Machine

/-! The decoder reads the template (R73). -/

/-- A word that carries a template decodes to an instruction of that keyword, with the word's fields as operands. -/
theorem decode_of_matches {m : Mnemonic} {op : Word} (h : m.Matches op) :
    ∃ i, decode op = .ok i ∧ i.source = ⟨m, operandFields m op⟩ := by
  have htop := h.opTop_eq
  cases m with
  | cls | ret =>
    obtain rfl := (Mnemonic.matches_iff_A rfl).mp h
    exact ⟨_, rfl, rfl⟩
  | jump | call | loadi | jumpi | ske | skne | load | add | rand | draw => exact ⟨_, by rw [decode, htop]; rfl, rfl⟩
  | skre | jneq =>
    obtain ⟨-, hn⟩ := (Mnemonic.matches_iff_D rfl).mp h
    exact ⟨_, by rw [decode, htop]; exact if_pos hn, rfl⟩
  | move | or | and | xor | addr | sub | shr | subb | shl =>
    obtain ⟨-, hn⟩ := (Mnemonic.matches_iff_D rfl).mp h
    have hgroup : decode op = decodeGroup8 op := by rw [decode, htop]; rfl
    exact ⟨_, by rw [hgroup, decodeGroup8, hn]; rfl, rfl⟩
  | skpr | skup =>
    obtain ⟨-, hnn⟩ := (Mnemonic.matches_iff_E rfl).mp h
    have hgroup : decode op = decodeGroupE op := by rw [decode, htop]; rfl
    exact ⟨_, by rw [hgroup, decodeGroupE, hnn]; rfl, rfl⟩
  | moved | keyd | loadd | loads | addi | ldspr | bcd | push | pop =>
    obtain ⟨-, hnn⟩ := (Mnemonic.matches_iff_E rfl).mp h
    have hgroup : decode op = decodeGroupF op := by rw [decode, htop]; rfl
    exact ⟨_, by rw [hgroup, decodeGroupF, hnn]; rfl, rfl⟩

section
variable {op : Word} {i : Instr}

theorem matches_of_decodeGroup0 (h : decodeGroup0 op = .ok i) : i.mnemonic.Matches op := by
  unfold decodeGroup0 at h
  split at h
  · cases h
    exact (Mnemonic.matches_iff_A rfl).mpr ‹_›
  · split at h
    · cases h
      exact (Mnemonic.matches_iff_A rfl).mpr ‹_›
    · cases h

theorem matches_of_decodeGroup8 (ht : opTop op = 0x8) (h : decodeGroup8 op = .ok i) : i.mnemonic.Matches op := by
  unfold decodeGroup8 at h
  split at h <;> cases h
  all_goals
    rename_i hn
    simp only [Instr.mnemonic]
    exact (Mnemonic.matches_iff_D rfl).mpr ⟨ht, hn⟩

theorem matches_of_decodeGroupE (ht : opTop op = 0xE) (h : decodeGroupE op = .ok i) : i.mnemonic.Matches op := by
  unfold decodeGroupE at h
  split at h <;> cases h
  all_goals
    rename_i hnn
    simp only [Instr.mnemonic]
    exact (Mnemonic.matches_iff_E rfl).mpr ⟨ht, hnn⟩

theorem matches_of_decodeGroupF (ht : opTop op = 0xF) (h : decodeGroupF op = .ok i) : i.mnemonic.Matches op := by
  unfold decodeGroupF at h
  split at h <;> cases h
  all_goals
    rename_i hnn
    simp only [Instr.mnemonic]
    exact (Mnemonic.matches_iff_E rfl).mpr ⟨ht, hnn⟩

/-- SKRE and JNEQ are recognised only with a low nibble 0 (the spec's decision D9). -/
theorem eq_ok_of_ite_opN {e : DecodeError} {j : Instr} (h : (if opN op = 0 then .ok j else .error e) = Except.ok i) :
    opN op = 0 ∧ j = i := by
  split at h
  next hn => exact ⟨hn, Except.ok.inj h⟩
  next => cases h

/-- A word that decodes carries the template of the instruction's keyword. In `case h_k` the top nibble is `k - 1`. -/
theorem matches_of_decode (h : decode op = .ok i) : i.mnemonic.Matches op := by
  unfold decode at h
  split at h
  case h_1 => exact matches_of_decodeGroup0 h
  case h_6 ht | h_10 ht =>
    obtain ⟨hn, rfl⟩ := eq_ok_of_ite_opN h
    simp only [Instr.mnemonic]
    exact (Mnemonic.matches_iff_D rfl).mpr ⟨ht, hn⟩
  case h_9 ht => exact matches_of_decodeGroup8 ht h
  case h_15 ht => exact matches_of_decodeGroupE ht h
  case h_16 =>
    have ht : opTop op = 0xF := by
      simp only [imp_false] at *
      bv_omega
    exact matches_of_decodeGroupF ht h
  all_goals
    rename_i ht
    cases h
    simp only [Instr.mnemonic]
    exact (Mnemonic.matches_iff_B rfl).mpr ht

end

/-! The disassembler reads the same template (R87). -/

theorem classOfWord_template (m : Mnemonic) : classOfWord m.template = m.operandClass := by
  cases m <;> rfl

theorem classOfWord_normalise (op : Word) : classOfWord (normalise op) = classOfWord op := by
  rw [classOfWord, normalise, opTop_and_mask]
  rfl

/-- The word masked by its own class, as the disassembler has it, against the word masked by the keyword's class. -/
theorem normalise_eq_template_iff (m : Mnemonic) (op : Word) : normalise op = m.template ↔ m.Matches op := by
  constructor
  · intro h
    have hclass : classOfWord op = m.operandClass := by rw [← classOfWord_normalise, h, classOfWord_template]
    rwa [Mnemonic.Matches, ← hclass]
  · intro h
    have hclass : classOfWord op = m.operandClass := by
      rw [← classOfWord_template, classOfWord, h.opTop_eq]
      rfl
    rwa [normalise, hclass]

/-- Every keyword is found by its template (R87): no keyword before it in the map has the same one. -/
theorem find_template (m : Mnemonic) : keywords.find? (fun k => k.template == m.template) = some m := by
  cases m <;> rfl

theorem disassemble_of_matches {m : Mnemonic} {op : Word} (h : m.Matches op) :
    disassemble op = some ⟨m, operandFields m op⟩ := by
  rw [disassemble, (normalise_eq_template_iff m op).mpr h, find_template]

theorem exists_matches_of_disassemble {op : Word} {src : SourceInstr} (h : disassemble op = some src) :
    ∃ m : Mnemonic, m.Matches op := by
  unfold disassemble at h
  split at h
  next m hfind =>
    have htemplate : (m.template == normalise op) = true :=
      List.find?_some (p := fun k : Mnemonic => k.template == normalise op) hfind
    exact ⟨m, (normalise_eq_template_iff m op).mp (beq_iff_eq.mp htemplate).symm⟩
  next => cases h

/-- Where the decoder gives an instruction, the disassembler gives its keyword and operands. -/
theorem disassemble_of_decode {op : Word} {i : Instr} (h : decode op = .ok i) : disassemble op = some i.source := by
  have hm := matches_of_decode h
  obtain ⟨j, hj, hsource⟩ := decode_of_matches hm
  obtain rfl : j = i := Except.ok.inj (hj.symm.trans h)
  rw [disassemble_of_matches hm, hsource]

/-- Where the decoder refuses a word, so does the disassembler. -/
theorem disassemble_of_decode_error {op : Word} {e : DecodeError} (h : decode op = .error e) : disassemble op = none := by
  cases hd : disassemble op with
  | none => rfl
  | some src =>
    obtain ⟨m, hm⟩ := exists_matches_of_disassemble hd
    obtain ⟨i, hi, -⟩ := decode_of_matches hm
    cases h.symm.trans hi

end Sys2Proof.Machine
end

section
/-! SUPPORT. Packing (R72, R84, R85): a well-formed source instruction becomes the word of its template and its operands, field by
field. -/

namespace Sys2Proof.Machine

/-! Numbers that fit a field are the values of the field (R84). -/

theorem fitsNibble_iff {k : Nat} : fitsNibble k = true ↔ ∃ x : Nibble, x.toNat = k :=
  ⟨fun h => ⟨.ofNat 4 k, Nat.mod_eq_of_lt (Nat.lt_succ_of_le (of_decide_eq_true h))⟩,
    fun ⟨x, hx⟩ => decide_eq_true (hx ▸ Nat.le_of_lt_succ x.isLt)⟩

theorem fitsByte_iff {k : Nat} : fitsByte k = true ↔ ∃ nn : Byte, nn.toNat = k :=
  ⟨fun h => ⟨.ofNat 8 k, Nat.mod_eq_of_lt (Nat.lt_succ_of_le (of_decide_eq_true h))⟩,
    fun ⟨nn, hnn⟩ => decide_eq_true (hnn ▸ Nat.le_of_lt_succ nn.isLt)⟩

theorem fitsAddr_iff {k : Nat} : fitsAddr k = true ↔ ∃ nnn : Addr12, nnn.toNat = k :=
  ⟨fun h => ⟨.ofNat 12 k, Nat.mod_eq_of_lt (Nat.lt_succ_of_le (of_decide_eq_true h))⟩,
    fun ⟨nnn, hnnn⟩ => decide_eq_true (hnnn ▸ Nat.le_of_lt_succ nnn.isLt)⟩

/-! The number of a word, from its fields (R71). -/

theorem toNat_word_B (t : Nibble) (nnn : Addr12) : BitVec.toNat (w := 16) (t ++ nnn) = t.toNat <<< 12 ||| nnn.toNat :=
  BitVec.toNat_append t nnn

theorem toNat_word_C (t x : Nibble) (nn : Byte) :
    BitVec.toNat (w := 16) (t ++ x ++ nn) = t.toNat <<< 12 ||| x.toNat <<< 8 ||| nn.toNat :=
  (BitVec.toNat_append (t ++ x) nn).trans (by rw [BitVec.toNat_append, Nat.shiftLeft_or_distrib, ← Nat.shiftLeft_add])

theorem toNat_word_D (t x y n : Nibble) :
    BitVec.toNat (w := 16) (t ++ x ++ y ++ n) = t.toNat <<< 12 ||| x.toNat <<< 8 ||| y.toNat <<< 4 ||| n.toNat := by
  refine (BitVec.toNat_append (t ++ x ++ y) n).trans ?_
  rw [BitVec.toNat_append (t ++ x) y, BitVec.toNat_append t x]
  simp only [Nat.shiftLeft_or_distrib, ← Nat.shiftLeft_add]

/-! A template by its class: zero in the operand fields (R74). -/

section
variable {m : Mnemonic}

theorem toNat_template_B (h : m.operandClass.mask = OperandClass.mask .b) :
    m.template.toNat = (opTop m.template).toNat <<< 12 := by
  have htemplate := (and_mask_B m.template).symm.trans (h ▸ m.template_and_mask)
  exact (congrArg BitVec.toNat htemplate.symm).trans ((toNat_word_B _ _).trans (Nat.or_zero _))

theorem toNat_template_D (h : m.operandClass = .d) :
    m.template.toNat = (opTop m.template).toNat <<< 12 ||| (opN m.template).toNat := by
  have htemplate := (and_mask_D m.template).symm.trans (h ▸ m.template_and_mask)
  refine (congrArg BitVec.toNat htemplate.symm).trans ((toNat_word_D _ _ _ _).trans ?_)
  rw [BitVec.toNat_zero, Nat.zero_shiftLeft, Nat.zero_shiftLeft, Nat.or_zero, Nat.or_zero]

theorem toNat_template_E (h : m.operandClass = .e) :
    m.template.toNat = (opTop m.template).toNat <<< 12 ||| (opNn m.template).toNat := by
  have htemplate := (and_mask_E m.template).symm.trans (h ▸ m.template_and_mask)
  refine (congrArg BitVec.toNat htemplate.symm).trans ((toNat_word_C _ _ _).trans ?_)
  rw [BitVec.toNat_zero, Nat.zero_shiftLeft, Nat.or_zero]

/-! The word packed, by the class (R72). -/

/-- What packing computes is a word as soon as it is the word's number. -/
theorem some_ofNat_eq {w : Word} {k : Nat} (h : k = w.toNat) : some (BitVec.ofNat 16 k) = some w := by
  rw [h, BitVec.ofNat_toNat, BitVec.setWidth_eq]

theorem pack_A (h : m.operandClass = .a) : SourceInstr.pack ⟨m, []⟩ = some m.template := by
  simp only [SourceInstr.pack, h]
  exact some_ofNat_eq rfl

theorem pack_B (h : m.operandClass = .b) (nnn : Addr12) :
    SourceInstr.pack ⟨m, [nnn.toNat]⟩ = some (opTop m.template ++ nnn) := by
  have hmask : nnn.toNat &&& 0xFFF = nnn.toNat := Nat.and_two_pow_sub_one_of_lt_two_pow (n := 12) nnn.isLt
  simp only [SourceInstr.pack, h]
  apply some_ofNat_eq
  rw [hmask, toNat_template_B (by rw [h]), toNat_word_B]

theorem pack_C (h : m.operandClass = .c) (x : Nibble) (nn : Byte) :
    SourceInstr.pack ⟨m, [x.toNat, nn.toNat]⟩ = some (opTop m.template ++ x ++ nn) := by
  simp only [SourceInstr.pack, h]
  apply some_ofNat_eq
  rw [toNat_template_B (by rw [h]; rfl), toNat_word_C]

theorem pack_D (h : m.operandClass = .d) (hy : m.ignoresY = false) (x y : Nibble) :
    SourceInstr.pack ⟨m, [x.toNat, y.toNat]⟩ = some (opTop m.template ++ x ++ y ++ opN m.template) := by
  simp only [SourceInstr.pack, h, hy, Bool.false_eq_true, if_false]
  apply some_ofNat_eq
  rw [toNat_template_D h, toNat_word_D]
  ac_rfl

/-- SHR and SHL leave the `y` field 0 (R78). -/
theorem pack_D_ignoresY (h : m.operandClass = .d) (hy : m.ignoresY = true) (x : Nibble) :
    SourceInstr.pack ⟨m, [x.toNat]⟩ = some (opTop m.template ++ x ++ 0#4 ++ opN m.template) := by
  simp only [SourceInstr.pack, h, hy, if_true]
  apply some_ofNat_eq
  rw [toNat_template_D h, toNat_word_D, BitVec.toNat_zero, Nat.zero_shiftLeft, Nat.or_zero]
  ac_rfl

theorem pack_E (h : m.operandClass = .e) (x : Nibble) :
    SourceInstr.pack ⟨m, [x.toNat]⟩ = some (opTop m.template ++ x ++ opNn m.template) := by
  have hmask : x.toNat &&& 0xF = x.toNat := Nat.and_two_pow_sub_one_of_lt_two_pow (n := 4) x.isLt
  simp only [SourceInstr.pack, h]
  apply some_ofNat_eq
  rw [hmask, toNat_template_E h, toNat_word_C]
  ac_rfl

theorem pack_F (h : m.operandClass = .f) (x y n : Nibble) :
    SourceInstr.pack ⟨m, [x.toNat, y.toNat, n.toNat]⟩ = some (opTop m.template ++ x ++ y ++ n) := by
  simp only [SourceInstr.pack, h]
  apply some_ofNat_eq
  rw [toNat_template_B (by rw [h]; rfl), toNat_word_D]

end

/-- The operands of a well-formed source instruction, by the class, are the values of the fields of a word (R84, R85). -/
inductive FieldOperands (m : Mnemonic) : List Nat → Prop where
  | a (h : m.operandClass = .a) : FieldOperands m []
  | b (h : m.operandClass = .b) (nnn : Addr12) : FieldOperands m [nnn.toNat]
  | c (h : m.operandClass = .c) (x : Nibble) (nn : Byte) : FieldOperands m [x.toNat, nn.toNat]
  | d (h : m.operandClass = .d) (hy : m.ignoresY = false) (x y : Nibble) : FieldOperands m [x.toNat, y.toNat]
  | shift (h : m.operandClass = .d) (hy : m.ignoresY = true) (x : Nibble) : FieldOperands m [x.toNat]
  | e (h : m.operandClass = .e) (x : Nibble) : FieldOperands m [x.toNat]
  | f (h : m.operandClass = .f) (x y n : Nibble) : FieldOperands m [x.toNat, y.toNat, n.toNat]

theorem fieldOperands_of_wellFormed {m : Mnemonic} {operands : List Nat} (h : SourceInstr.wellFormed ⟨m, operands⟩ = true) :
    FieldOperands m operands := by
  simp only [SourceInstr.wellFormed] at h
  split at h <;>
    simp only [Bool.and_eq_true, Bool.not_eq_true', fitsNibble_iff, fitsByte_iff, fitsAddr_iff, Bool.false_eq_true] at h
  next hc => exact .a hc
  next hc =>
    obtain ⟨nnn, rfl⟩ := h
    exact .b hc nnn
  next hc =>
    obtain ⟨⟨x, rfl⟩, nn, rfl⟩ := h
    exact .c hc x nn
  next hc =>
    obtain ⟨hy, x, rfl⟩ := h
    exact .shift hc hy x
  next hc =>
    obtain ⟨hy, ⟨x, rfl⟩, y, rfl⟩ := h
    exact .d hc hy x y
  next hc =>
    obtain ⟨x, rfl⟩ := h
    exact .e hc x
  next hc =>
    obtain ⟨⟨x, rfl⟩, ⟨y, rfl⟩, n, rfl⟩ := h
    exact .f hc x y n

/-- Packing a well-formed source instruction gives a word that carries its template and its operands. -/
theorem pack_of_wellFormed {src : SourceInstr} (h : src.wellFormed = true) :
    ∃ w, src.pack = some w ∧ src.mnemonic.Matches w ∧ operandFields src.mnemonic w = src.operands := by
  obtain ⟨m, operands⟩ := src
  cases fieldOperands_of_wellFormed h with
  | a hc => exact ⟨_, pack_A hc, m.matches_template, by simp [operandFields, hc]⟩
  | b hc nnn =>
    exact ⟨_, pack_B hc nnn, (Mnemonic.matches_iff_B (by rw [hc])).mpr (opTop_B _ _),
      by simp [operandFields, hc]⟩
  | c hc x nn =>
    exact ⟨_, pack_C hc x nn, (Mnemonic.matches_iff_B (by rw [hc]; rfl)).mpr (opTop_C _ _ _),
      by simp [operandFields, hc]⟩
  | d hc hy x y =>
    exact ⟨_, pack_D hc hy x y, (Mnemonic.matches_iff_D hc).mpr ⟨opTop_D _ _ _ _, opN_D _ _ _ _⟩,
      by simp [operandFields, hc, hy]⟩
  | shift hc hy x =>
    exact ⟨_, pack_D_ignoresY hc hy x, (Mnemonic.matches_iff_D hc).mpr ⟨opTop_D _ _ _ _, opN_D _ _ _ _⟩,
      by simp [operandFields, hc, hy]⟩
  | e hc x =>
    exact ⟨_, pack_E hc x, (Mnemonic.matches_iff_E hc).mpr ⟨opTop_C _ _ _, opNn_C _ _ _⟩, by simp [operandFields, hc]⟩
  | f hc x y n =>
    exact ⟨_, pack_F hc x y n, (Mnemonic.matches_iff_B (by rw [hc]; rfl)).mpr (opTop_D _ _ _ _),
      by simp [operandFields, hc]⟩

theorem operandClass_of_ignoresY {m : Mnemonic} (h : m.ignoresY = true) : m.operandClass = .d := by
  cases m with
  | shr | shl => rfl
  | _ => cases h

/-- SHR and SHL: the packed `y` field is 0, and there is one operand (R78). -/
theorem opY_of_pack_ignoresY {src : SourceInstr} {w : Word} (h : src.wellFormed = true) (hy : src.mnemonic.ignoresY = true)
    (hpack : src.pack = some w) : opY w = 0 ∧ src.operands.length = 1 := by
  obtain ⟨m, operands⟩ := src
  have hd : m.operandClass = .d := operandClass_of_ignoresY hy
  cases fieldOperands_of_wellFormed h with
  | shift _ _ x =>
    obtain rfl := Option.some.inj ((pack_D_ignoresY hd hy x).symm.trans hpack)
    exact ⟨opY_D _ _ _ _, rfl⟩
  | d _ hy' => cases hy.symm.trans hy'
  | a hc | b hc | c hc | e hc | f hc => cases hd.symm.trans hc

end Sys2Proof.Machine
end

section
/-! SUPPORT. The statements of 30_encoding.md: the round trip of a source instruction (R90) and the two bytes of an instruction
(R70). -/

namespace Sys2Proof.Machine

/-- Settles O3: packing gives a word that carries the keyword's template, and decoder and disassembler both go by the template a
word carries. -/
theorem sourceRoundTrip : Obligations.SourceRoundTrip := by
  refine ⟨fun src hwf => ?_, fun _ _ => disassemble_of_decode, fun _ _ => disassemble_of_decode_error⟩
  obtain ⟨w, hpack, hmatches, hops⟩ := pack_of_wellFormed hwf
  obtain ⟨i, hdecode, hsource⟩ := decode_of_matches hmatches
  replace hsource : i.source = src := by rw [hsource, hops]
  exact ⟨w, i, hpack, hdecode, hsource, hsource ▸ disassemble_of_decode hdecode,
    fun hy => opY_of_pack_ignoresY hwf hy hpack⟩

/-- The bytes of a word are two, the high byte first (R55). -/
theorem bytesOfWord_toNat (op : Word) : ∃ hi lo, bytesOfWord op = [hi, lo] ∧ op.toNat = hi.toNat * 256 + lo.toNat :=
  ⟨_, _, rfl, by rw [← wordOfBytes_toNat, wordOfBytes_bytesOfWord]⟩

/-- Decoding bytes that decode takes the word of the first two and leaves the rest (R70). -/
theorem decodeBytes_cons_cons_ok {b0 b1 : Byte} {rest r : List Byte} {i : Instr}
    (h : decodeBytes (b0 :: b1 :: rest) = .ok (i, r)) : r = rest ∧ decode (wordOfBytes b0 b1) = .ok i := by
  rw [decodeBytes] at h
  split at h
  next hdecode =>
    cases h
    exact ⟨rfl, hdecode⟩
  next => cases h

/-- Fewer than two bytes are no instruction (R70). -/
theorem decodeBytes_truncated : ∀ bytes : List Byte, bytes.length < 2 → decodeBytes bytes = .error (.truncated bytes.length)
  | [], _ | [_], _ => rfl
  | _ :: _ :: rest, h => absurd h (by simp)

/-- Settles O7: the two bytes of an encoding, what decoding consumes, and the refusal of fewer than two bytes. -/
theorem instructionsAreTwoBytes : Obligations.InstructionsAreTwoBytes :=
  ⟨fun i => bytesOfWord_toNat (encode i), fun _ _ _ _ _ => decodeBytes_cons_cons_ok, decodeBytes_truncated⟩

end Sys2Proof.Machine
end

section
/-! SUPPORT. The statements of 40_control_transfer.md: JUMP (R101) and the six conditional skips (R103 to R107). Both change `PC` and
nothing else; a `PC` past the last word of memory is left to the next fetch. -/

namespace Sys2Proof.Machine

/-- A completed transfer of control touches no register and no part of the state. -/
theorem State.setPc_setReport_frame (s : State) (w : Word) (r : Report) : FrameBut s ((s.setPc w).setReport r) [] [] :=
  (s.setPc_frame w).seq (State.setReport_frame _ r)

/-- At the last byte of memory a fetch faults with the address of its low byte (R54). -/
theorem fetch_at_last_byte (s : State) (h : s.pc.toNat = 4095) : s.fetch = .error ⟨.memoryOutOfRange, 4096⟩ := by
  obtain ⟨-, hlast, -⟩ := fetchIsBigEndian s
  exact hlast h

/-- Past the last word of memory a fetch faults with the first of its two addresses that is not valid (R54). -/
theorem fetch_past_last_word (s : State) (h : 4094 < s.pc.toNat) :
    s.fetch = .error ⟨.memoryOutOfRange, if s.pc.toNat = 4095 then 4096 else s.pc⟩ := by
  obtain ⟨-, -, hbeyond, -⟩ := fetchIsBigEndian s
  split
  next heq => exact fetch_at_last_byte s heq
  next hne => exact hbeyond (by omega)

/-- A word with top nibble 1 is a JUMP, whatever its target (R101). -/
theorem decode_jump (nnn : Addr12) : decode (0x1#4 ++ nnn) = .ok (.jump nnn) := by
  rw [decode, opTop_B, opNnn_B]
  rfl

/-- JUMP writes its target to `PC` and completes (R101). -/
theorem exec_jump (nnn : Addr12) (s : State) : exec (.jump nnn) s = .next ((s.setPc (zextAddr nnn)).setReport .running) := rfl

/-- Zero extension of an address keeps its value (R76). -/
theorem zextAddr_toNat (nnn : Addr12) : (zextAddr nnn).toNat = nnn.toNat := BitVec.toNat_setWidth_of_le (by decide)

/-- Settles O18: the state after JUMP is known outright; a jump to the instruction's own address writes to `PC` what it holds. -/
theorem jumpSetsPc : Obligations.JumpSetsPc := by
  intro nnn
  refine ⟨decode_jump nnn, fun s => ⟨_, exec_jump nnn s, zextAddr_toNat nnn, rfl, s.setPc_setReport_frame _ _, fun hself => ?_,
    fun hlast => ?_⟩⟩
  · have hpc : zextAddr nnn = s.pc := BitVec.eq_of_toNat_eq ((zextAddr_toNat nnn).trans hself.symm)
    rw [hpc]
    rfl
  · have hnnn : (zextAddr nnn).toNat = 4095 := by
      rw [zextAddr_toNat]
      omega
    exact fetch_at_last_byte _ hnnn

/-- What the six skips share (R107): an instruction that completes with `skipIf` skips by the condition that is tested. -/
theorem skipsIf_of_exec_eq {i : Instr} {s : State} {c : Bool} {cond : Prop} (hexec : exec i s = (s.skipIf c).complete)
    (hcond : c = true ↔ cond) : SkipsIf i s cond := by
  rw [State.skipIf_eq] at hexec
  exact ⟨_, hexec, fun h => if_pos (hcond.mpr h), fun h => if_neg (mt hcond.mp h), rfl, s.setPc_setReport_frame _ _,
    fetch_past_last_word _⟩

/-- Settles O21: each skip is `skipIf` of its own test, an equality or an inequality of two bytes. -/
theorem conditionalSkipsAdvance : Obligations.ConditionalSkipsAdvance := fun _ _ _ _ =>
  ⟨skipsIf_of_exec_eq rfl beq_iff_eq, skipsIf_of_exec_eq rfl bne_iff_ne, skipsIf_of_exec_eq rfl beq_iff_eq,
    skipsIf_of_exec_eq rfl bne_iff_ne, skipsIf_of_exec_eq rfl beq_iff_eq, skipsIf_of_exec_eq rfl bne_iff_ne⟩

end Sys2Proof.Machine
end

section
/-! SUPPORT. The statements of 41_alu.md: LOAD (R120). What LOAD shares with every instruction that writes one register, advances
`PC` and sets no flag is said once. -/

namespace Sys2Proof.Machine

/-- A completed write of one register touches no other register and no part of the state. -/
theorem State.setReg_nextInsn_setReport_frame (s : State) (x : Nibble) (b : Byte) (r : Report) :
    FrameBut s ((s.setReg x b).nextInsn.setReport r) [x] [] :=
  ((s.setReg_frame x b).seq (State.nextInsn_frame _)).seq (State.setReport_frame _ r)

/-- An instruction that writes `b` to `V[x]` and advances `PC` completes with that one register changed. -/
theorem writesRegister_of_exec_eq {i : Instr} {s : State} {x : Nibble} {b : Byte}
    (hexec : exec i s = (s.setReg x b).nextInsn.complete) :
    ∃ t, exec i s = .next t ∧ t.reg x = b ∧ t.pc = s.pc + 2 ∧ t.report = some .running ∧ FrameBut s t [x] [] :=
  ⟨_, hexec, (s.setReg_reg x b x).trans (if_pos rfl), rfl, rfl, s.setReg_nextInsn_setReport_frame x b .running⟩

/-- A word with top nibble 6 is a LOAD, whatever its register and its byte (R120). -/
theorem decode_load (x : Nibble) (nn : Byte) : decode (0x6#4 ++ x ++ nn) = .ok (.load x nn) := by
  rw [decode, opTop_C, opX_C, opNn_C]
  rfl

/-- LOAD writes its byte to `V[x]`, advances `PC` and completes (R120). -/
theorem exec_load (x : Nibble) (nn : Byte) (s : State) : exec (.load x nn) s = (s.setReg x nn).nextInsn.complete := rfl

/-- Settles O25: the word by its fields, and LOAD as the write of one register. -/
theorem loadWritesImmediate : Obligations.LoadWritesImmediate := fun x nn =>
  ⟨decode_load x nn, fun s => writesRegister_of_exec_eq (exec_load x nn s)⟩

end Sys2Proof.Machine
end

section
/-! SUPPORT. A change of the timers from outside, and what runs the same through it (R166). -/

namespace Sys2Proof.Machine

/-- Both timers changed, each by its own function, and nothing else: the host's tick (R186) and any write of one timer are of this
shape. -/
def State.mapTimers (s : State) (f g : Byte → Byte) : State := (s.setDt (f s.dt)).setSt (g s.st)

theorem State.setDt_eq_mapTimers (s : State) (b : Byte) : s.setDt b = s.mapTimers (fun _ => b) id := rfl

theorem State.setSt_eq_mapTimers (s : State) (b : Byte) : s.setSt b = s.mapTimers id (fun _ => b) := rfl

theorem State.tick_eq_mapTimers (s : State) : s.tick = s.mapTimers ticked ticked := rfl

section
variable (s : State) (f g : Byte → Byte)

theorem State.mapTimers_frame : FrameBut s (s.mapTimers f g) [] [.delayTimer, .soundTimer] :=
  (s.setDt_frame (f s.dt)).seq (State.setSt_frame _ (g s.st))

theorem State.tick_frame : FrameBut s s.tick [] [.delayTimer, .soundTimer] := by
  rw [State.tick_eq_mapTimers]
  exact s.mapTimers_frame ticked ticked

@[simp] theorem State.mapTimers_i : (s.mapTimers f g).i = s.i := rfl
@[simp] theorem State.mapTimers_sp : (s.mapTimers f g).sp = s.sp := rfl
@[simp] theorem State.mapTimers_base : (s.mapTimers f g).base = s.base := rfl
@[simp] theorem State.mapTimers_fb : (s.mapTimers f g).fb = s.fb := rfl
@[simp] theorem State.mapTimers_input : (s.mapTimers f g).input = s.input := rfl
@[simp] theorem State.mapTimers_reg (r : Nibble) : (s.mapTimers f g).reg r = s.reg r := rfl

/-! The executor's operations on a state whose timers have been changed. -/

@[simp] theorem State.regsFrom_mapTimers (k n : Nat) : (s.mapTimers f g).regsFrom k n = s.regsFrom k n := by
  induction n generalizing k with
  | zero => rfl
  | succ n ih => exact congrArg (s.reg (BitVec.ofNat 4 k) :: ·) (ih (k + 1))

theorem State.setRegsFrom_mapTimers (k : Nat) (bytes : List Byte) :
    (s.mapTimers f g).setRegsFrom k bytes = (s.setRegsFrom k bytes).mapTimers f g := by
  induction bytes generalizing s k with
  | nil => rfl
  | cons b bs ih => exact ih (s.setReg (BitVec.ofNat 4 k) b) (k + 1)

@[simp] theorem State.loadBlock_mapTimers (base n : Nat) : (s.mapTimers f g).loadBlock base n = s.loadBlock base n := rfl

@[simp] theorem State.storeBlock_mapTimers (base : Nat) (bytes : List Byte) :
    (s.mapTimers f g).storeBlock base bytes = (s.storeBlock base bytes).map (·.mapTimers f g) := by
  cases h : rangeFault base bytes.length with
  | some fault => rw [storeBlock_fault h, storeBlock_fault h, Except.map]
  | none =>
    rw [storeBlock_room h, storeBlock_room h]
    rfl

/-! The instructions that branch. -/

theorem complete_skipIf_mapTimers (c : Bool) :
    ((s.mapTimers f g).skipIf c).complete = mapNext (·.mapTimers f g) (s.skipIf c).complete := by
  cases c <;> rfl

theorem execRet_mapTimers : execRet (s.mapTimers f g) = mapNext (·.mapTimers f g) (execRet s) := by
  by_cases h : s.sp = 0
  · simp only [execRet, State.mapTimers_sp, h, ↓reduceIte]
    rfl
  · simp only [execRet, State.mapTimers_sp, h, ↓reduceIte]
    rfl

theorem execCall_mapTimers (nnn : Addr12) : execCall nnn (s.mapTimers f g) = mapNext (·.mapTimers f g) (execCall nnn s) := by
  by_cases h : s.sp = 15
  · simp only [execCall, State.mapTimers_sp, h, ↓reduceIte]
    rfl
  · simp only [execCall, State.mapTimers_sp, h, ↓reduceIte]
    rfl

theorem execAddi_mapTimers (x : Nibble) : execAddi x (s.mapTimers f g) = mapNext (·.mapTimers f g) (execAddi x s) := by
  by_cases h : indexWraps s.i (s.reg x) = true
  · simp only [execAddi, State.mapTimers_i, State.mapTimers_reg, h, ↓reduceIte]
    rfl
  · simp only [execAddi, State.mapTimers_i, State.mapTimers_reg, h]
    rfl

theorem execKeyd_mapTimers (x : Nibble) : execKeyd x (s.mapTimers f g) = mapNext (·.mapTimers f g) (execKeyd x s) := by
  simp only [execKeyd, State.mapTimers_input]
  split <;> rfl

theorem execBcd_mapTimers (x : Nibble) : execBcd x (s.mapTimers f g) = mapNext (·.mapTimers f g) (execBcd x s) := by
  simp only [execBcd, State.storeBlock_mapTimers, State.mapTimers_base, State.mapTimers_reg]
  cases s.storeBlock s.base (bcdDigits (s.reg x)) <;> rfl

theorem execPush_mapTimers (x : Nibble) : execPush x (s.mapTimers f g) = mapNext (·.mapTimers f g) (execPush x s) := by
  simp only [execPush, State.storeBlock_mapTimers, State.mapTimers_base, State.regsFrom_mapTimers]
  cases s.storeBlock s.base (s.regsFrom 0 (x.toNat + 1)) <;> rfl

theorem execPop_mapTimers (x : Nibble) : execPop x (s.mapTimers f g) = mapNext (·.mapTimers f g) (execPop x s) := by
  simp only [execPop, State.loadBlock_mapTimers, State.mapTimers_base, State.setRegsFrom_mapTimers]
  cases s.loadBlock s.base (x.toNat + 1) <;> rfl

theorem execDraw_mapTimers (x y n : Nibble) :
    execDraw x y n (s.mapTimers f g) = mapNext (·.mapTimers f g) (execDraw x y n s) := by
  simp only [execDraw, State.loadBlock_mapTimers, State.mapTimers_base, State.mapTimers_reg, State.mapTimers_fb]
  cases s.loadBlock s.base n.toNat <;> rfl

/-- An instruction that is none of the three of the timers does the same whatever the timers hold, and leaves them so. -/
theorem exec_mapTimers {i : Instr} (hmoved : ∀ x, i ≠ .moved x) (hloadd : ∀ x, i ≠ .loadd x) (hloads : ∀ x, i ≠ .loads x) :
    exec i (s.mapTimers f g) = mapNext (·.mapTimers f g) (exec i s) := by
  cases i with
  | moved x => exact absurd rfl (hmoved x)
  | loadd x => exact absurd rfl (hloadd x)
  | loads x => exact absurd rfl (hloads x)
  | ret => exact execRet_mapTimers s f g
  | call nnn => exact execCall_mapTimers s f g nnn
  | addi x => exact execAddi_mapTimers s f g x
  | keyd x => exact execKeyd_mapTimers s f g x
  | bcd x => exact execBcd_mapTimers s f g x
  | push x => exact execPush_mapTimers s f g x
  | pop x => exact execPop_mapTimers s f g x
  | draw x y n => exact execDraw_mapTimers s f g x y n
  | ske _ _ | skne _ _ | skre _ _ | jneq _ _ | skpr _ | skup _ => exact complete_skipIf_mapTimers s f g _
  | cls | jump _ | jumpi _ | load _ _ | add _ _ | move _ _ | or _ _ | and _ _ | xor _ _ | addr _ _ | sub _ _ | subb _ _ | shr _
  | shl _ | rand _ _ | loadi _ | ldspr _ => rfl

end

end Sys2Proof.Machine
end

section
/-! SUPPORT. The statements of 44_key_timer.md: the three instructions that see the timers (R162 to R166). -/

namespace Sys2Proof.Machine

theorem State.raise_frame (s : State) (f : MachineFault) : FrameBut s (s.raise f) [] [.faultRecord] :=
  ⟨fun _ _ => rfl, fun p hp => by cases p <;> simp_all [Part.same]⟩

/-- However an instruction ends, it leaves every part outside its row of R39, the fault record aside. -/
theorem exec_part_same {i : Instr} {s t : State} (h : exec i s = .next t) {p : Part} (hp : p ∉ partsWritten i)
    (hrec : p ≠ .faultRecord) : p.same s t := by
  have hends : Ends i s (.next t) := h ▸ exec_ends i s
  cases hends with
  | faults f => exact (s.raise_frame f).2 p (by simpa using hrec)
  | waits => exact (s.setReport_frame .needsInput).2 p (by simp)
  | completes _ _ _ ht => exact ht.frame.2 p hp

/-- A cycle that changes a part other than the fault record has executed an instruction with that part in its row of R39. -/
theorem cycle_part_changed {s t : State} (h : cycle s = .next t) {p : Part} (hrec : p ≠ .faultRecord) (hp : ¬ p.same s t) :
    ∃ op i, s.fetch = .ok op ∧ decode op = .ok i ∧ exec i s = .next t ∧ p ∈ partsWritten i := by
  rcases cycle_cases s t h with ⟨-, rfl⟩ | ⟨-, -, rfl⟩ | ⟨op, e, -, -, -, -, rfl⟩ | ⟨op, i, -, -, hfetch, hdecode, hexec⟩
  · exact absurd ((s.setReport_frame .halted).2 p (by simp)) hp
  · exact absurd ((s.raise_frame _).2 p (by simpa using hrec)) hp
  · exact absurd ((s.raise_frame _).2 p (by simpa using hrec)) hp
  · exact ⟨op, i, hfetch, hdecode, hexec, by_contra fun hnot => hp (exec_part_same hexec hnot hrec)⟩

/-- LOADD is the only instruction whose row names DT (R39). -/
theorem eq_loadd_of_writes_delayTimer {i : Instr} (h : .delayTimer ∈ partsWritten i) : ∃ x, i = .loadd x := by
  cases i <;> simp_all [partsWritten]

/-- LOADS is the only instruction whose row names ST (R39). -/
theorem eq_loads_of_writes_soundTimer {i : Instr} (h : .soundTimer ∈ partsWritten i) : ∃ x, i = .loads x := by
  cases i <;> simp_all [partsWritten]

/-- MOVED copies DT to `V[x]`, advances `PC` and completes (R162). -/
theorem exec_moved (x : Nibble) (s : State) : exec (.moved x) s = .next ((s.setReg x s.dt).nextInsn.setReport .running) := rfl

/-- LOADD copies `V[x]` to DT, advances `PC` and completes (R164). -/
theorem exec_loadd (x : Nibble) (s : State) : exec (.loadd x) s = .next ((s.setDt (s.reg x)).nextInsn.setReport .running) := rfl

/-- LOADS copies `V[x]` to ST, advances `PC` and completes (R165). -/
theorem exec_loads (x : Nibble) (s : State) : exec (.loads x) s = .next ((s.setSt (s.reg x)).nextInsn.setReport .running) := rfl

theorem cycle_dt_changed {s t : State} (h : cycle s = .next t) (hdt : t.dt ≠ s.dt) :
    ∃ op x, s.fetch = .ok op ∧ decode op = .ok (.loadd x) ∧ t.dt = s.reg x := by
  obtain ⟨op, i, hfetch, hdecode, hexec, hwrites⟩ := cycle_part_changed (p := .delayTimer) h (by simp) hdt
  obtain ⟨x, rfl⟩ := eq_loadd_of_writes_delayTimer hwrites
  rw [exec_loadd] at hexec
  cases hexec
  exact ⟨op, x, hfetch, hdecode, rfl⟩

theorem cycle_st_changed {s t : State} (h : cycle s = .next t) (hst : t.st ≠ s.st) :
    ∃ op x, s.fetch = .ok op ∧ decode op = .ok (.loads x) ∧ t.st = s.reg x := by
  obtain ⟨op, i, hfetch, hdecode, hexec, hwrites⟩ := cycle_part_changed (p := .soundTimer) h (by simp) hst
  obtain ⟨x, rfl⟩ := eq_loads_of_writes_soundTimer hwrites
  rw [exec_loads] at hexec
  cases hexec
  exact ⟨op, x, hfetch, hdecode, rfl⟩

/-- DT is seen by MOVED and LOADD only: LOADS writes the other timer, and the rest see neither. -/
theorem exec_setDt (i : Instr) (s : State) (b : Byte) (hmoved : ∀ x, i ≠ .moved x) (hloadd : ∀ x, i ≠ .loadd x) :
    exec i (s.setDt b) = mapNext (·.setDt b) (exec i s) := by
  by_cases hloads : ∃ x, i = .loads x
  · obtain ⟨x, rfl⟩ := hloads
    rfl
  · simp only [State.setDt_eq_mapTimers]
    exact exec_mapTimers s (fun _ => b) id hmoved hloadd (not_exists.mp hloads)

/-- ST is seen by LOADS only: MOVED and LOADD read and write the other timer, and the rest see neither. -/
theorem exec_setSt (i : Instr) (s : State) (b : Byte) (hloads : ∀ x, i ≠ .loads x) :
    exec i (s.setSt b) = mapNext (·.setSt b) (exec i s) := by
  by_cases hmoved : ∃ x, i = .moved x
  · obtain ⟨x, rfl⟩ := hmoved
    rfl
  by_cases hloadd : ∃ x, i = .loadd x
  · obtain ⟨x, rfl⟩ := hloadd
    rfl
  · simp only [State.setSt_eq_mapTimers]
    exact exec_mapTimers s id (fun _ => b) (not_exists.mp hmoved) (not_exists.mp hloadd) hloads

/-- Settles O45: writes by the rows of R39, reads by running each instruction on a state with other timers, a tick by its frame. -/
theorem executorNeverTicks : Obligations.ExecutorNeverTicks := by
  refine ⟨fun s t h => ⟨cycle_dt_changed h, cycle_st_changed h⟩, exec_setDt, exec_setSt, fun x s t h => ?_,
    fun x s => ⟨⟨_, exec_loadd x s, rfl⟩, _, exec_loads x s, rfl⟩, fun s => ⟨rfl, rfl, s.tick_frame⟩⟩
  rw [exec_moved] at h
  cases h
  exact ⟨rfl, rfl, (s.setReg_reg x s.dt x).trans (if_pos rfl)⟩

end Sys2Proof.Machine
end

section
/-! SUPPORT. The statements of 60_exceptions.md sections 4 and 5: reset, tick and clear dirty (R186, R193, R210), and a turn of the
host that drives no cycle (R190). -/

namespace Sys2Proof.Machine

/-- Another schedule and another input are the host's side of the state and nothing else. -/
theorem State.withHostSide_frame (s : State) (host : List Drive) (input : CycleInput) :
    FrameBut s { s with host := host, input := input } [] [.hostSide] :=
  ⟨fun _ _ => rfl, fun p hp => by cases p <;> simp_all [Part.same, State.slot, State.byteAt, State.pixelAt]⟩

theorem State.withDraws_frame (s : State) (n : Nat) : FrameBut s { s with draws := n } [] [.draws] :=
  ⟨fun _ _ => rfl, fun p hp => by cases p <;> simp_all [Part.same, State.slot, State.byteAt, State.pixelAt]⟩

/-- From any state, reset leaves the state after reset but for what is the host's and the count of draws (R210). -/
theorem State.resetMachine_frame (s : State) : FrameBut State.reset s.resetMachine [] [.hostSide, .draws] :=
  (State.reset.withHostSide_frame s.host s.input).seq (State.withDraws_frame _ s.draws)

/-- A tick in numbers: natural subtraction stops at 0, as a timer does (R186). -/
theorem ticked_toNat (b : Byte) : (ticked b).toNat = b.toNat - 1 := by
  by_cases h : b = 0
  · rw [ticked, if_pos h, h]
    rfl
  · rw [ticked, if_neg h]
    bv_omega

/-! A turn that drives no cycle. -/

section
variable {s : State} {d : Drive} {rest : List Drive}

theorem nextDrive_of_host_cons (h : s.host = d :: rest) : s.nextDrive = d := by
  rw [State.nextDrive, h, List.headD_cons]

theorem hostGap_of_host_cons (h : s.host = d :: rest) : s.hostGap = ({ s with host := rest } : State).hostOps d.before := by
  rw [State.hostGap, nextDrive_of_host_cons h, h, List.tail_cons]

/-- A turn without a cycle is the operations of its gap (R190). -/
theorem step_of_turn_without_cycle {ops : List HostOp} {t : State} (hhost : s.host = ⟨ops, none⟩ :: rest)
    (hops : ({ s with host := rest } : State).hostOps ops = .ok t) : step s = .next t := by
  have hgap : s.hostGap = .ok t := (hostGap_of_host_cons hhost).trans hops
  have hdrive := nextDrive_of_host_cons hhost
  simp only [step, State.hostPhase, hgap, hdrive]

end

/-- The state after a turn that is a tick alone: the turn is off the schedule and the timers have ticked. -/
theorem step_of_tick_turn {s : State} {rest : List Drive} (hhost : s.host = ⟨[.tick], none⟩ :: rest) :
    step s = .next ({ s with host := rest } : State).tick :=
  step_of_turn_without_cycle hhost rfl

/-- Settles O57: each operation by the state it answers and its frame; the turn of a tick is the tick after the schedule has moved
on. -/
theorem hostOperationRules : Obligations.HostOperationRules := fun s =>
  ⟨⟨_, rfl, rfl, rfl, s.resetMachine_frame⟩,
    ⟨_, rfl, ticked_toNat s.dt, ticked_toNat s.st, rfl, rfl, s.tick_frame⟩,
    ⟨_, rfl, rfl, rfl, rfl, s.setDirty_frame false⟩,
    fun _ _ _ => step_of_turn_without_cycle,
    fun rest hhost => ⟨_, step_of_tick_turn hhost, ticked_toNat s.dt, ticked_toNat s.st, rfl, rfl, rfl,
      ((s.withHostSide_frame rest s.input).seq (State.tick_frame _)).mono (by simp) (by simp)⟩⟩

end Sys2Proof.Machine
end

section
/-! SUPPORT. The statements of 60_exceptions.md that say when a step answers: every cycle does, and a turn of the host is refused for
one of two moves only (R192, R195). -/

namespace Sys2Proof.Machine

/-- Whichever of its three ends an instruction comes to, there is a next state. -/
theorem exec_answers (i : Instr) (s : State) : ∃ t, exec i s = .next t := by
  have hends := exec_ends i s
  generalize exec i s = o at hends
  cases hends with
  | faults f _ => exact ⟨_, rfl⟩
  | waits _ _ => exact ⟨_, rfl⟩
  | completes t _ _ _ => exact ⟨t, rfl⟩

/-- A cycle answers: Halted, on a fault of fetch or decode, and by executing (R170, R171). -/
theorem cycle_answers (s : State) : ∃ t, cycle s = .next t := by
  cases hs : s.status with
  | halted => exact ⟨_, by rw [cycle, hs]⟩
  | running =>
    cases hf : s.fetch with
    | error f => exact ⟨_, cycle_of_fetch_error hs hf⟩
    | ok op =>
      cases hd : decode op with
      | error e => exact ⟨s.raise (unrecognized op), by simp only [cycle, hs, hf, hd]⟩
      | ok i =>
        obtain ⟨t, ht⟩ := exec_answers i s
        exact ⟨t, by simp only [cycle, hs, hf, hd, ht]⟩

/-- A step answers when the host's turn does, and is refused for the reason the turn is. -/
theorem step_answers_or_refused (s : State) :
    (∃ t, step s = .next t) ∨ ∃ r, s.hostPhase = .error r ∧ step s = .refused r := by
  cases hp : s.hostPhase with
  | error r => exact .inr ⟨r, rfl, by rw [step, hp]⟩
  | ok t =>
    cases hi : s.nextDrive.input with
    | none => exact .inl ⟨t, by simp only [step, hp, hi]⟩
    | some c =>
      obtain ⟨u, hu⟩ := cycle_answers t
      exact .inl ⟨u, by simp only [step, hp, hi, hu]⟩

theorem step_answers_of_not_refused {s : State} (h : ∀ r, step s ≠ .refused r) : ∃ t, step s = .next t :=
  (step_answers_or_refused s).resolve_right fun ⟨r, _, hr⟩ => h r hr

/-! Load ROM (R192). -/

/-- An image over the 3584 bytes from `PROGRAM_ORIGIN` to the end of memory is refused by its length. -/
theorem loadRom_too_long (s : State) {rom : List Byte} (h : 3584 < rom.length) :
    s.loadRom rom = .error (.romTooLong rom.length) := if_pos h

/-- The state after an image that fits has been loaded: memory and the note of a late load are all that is written. -/
def State.withRom (s : State) (rom : List Byte) : State :=
  (s.setMem (writeBytes s.mem 0x200 rom)).setLateRom (s.lateRom || s.report.isSome)

theorem loadRom_fits (s : State) {rom : List Byte} (h : rom.length ≤ 3584) : s.loadRom rom = .ok (s.withRom rom) :=
  if_neg (Nat.not_lt.mpr h)

/-! Refusals of the host's moves (R190). -/

/-- The only operation the host can be refused is the load of an image that is too long. -/
theorem hostOp_refused {s : State} {op : HostOp} {r : Refusal} (h : s.hostOp op = .error r) :
    ∃ rom, op = .loadRom rom ∧ r = .romTooLong rom.length ∧ 3584 < rom.length := by
  cases op with
  | reset | tick | clearDirty => cases h
  | loadRom rom =>
    change s.loadRom rom = .error r at h
    by_cases hlen : rom.length ≤ 3584
    · rw [loadRom_fits s hlen] at h
      cases h
    · rw [loadRom_too_long s (Nat.lt_of_not_le hlen)] at h
      exact ⟨rom, rfl, (Except.error.inj h).symm, Nat.lt_of_not_le hlen⟩

theorem hostOps_cons_ok {s u : State} {op : HostOp} (h : s.hostOp op = .ok u) (ops : List HostOp) :
    s.hostOps (op :: ops) = u.hostOps ops := by
  rw [State.hostOps, h]

theorem hostOps_cons_refused {s : State} {op : HostOp} {r : Refusal} (h : s.hostOp op = .error r) (ops : List HostOp) :
    s.hostOps (op :: ops) = .error r := by
  rw [State.hostOps, h]

/-- A list of operations is refused for an image in it that is too long. -/
theorem hostOps_refused {s : State} {ops : List HostOp} {r : Refusal} (h : s.hostOps ops = .error r) :
    ∃ rom, HostOp.loadRom rom ∈ ops ∧ r = .romTooLong rom.length ∧ 3584 < rom.length := by
  induction ops generalizing s with
  | nil => cases h
  | cons op ops ih =>
    cases hop : s.hostOp op with
    | error r' =>
      rw [hostOps_cons_refused hop] at h
      obtain ⟨rom, rfl, hr, hlen⟩ := hostOp_refused (hop.trans h)
      exact ⟨rom, List.mem_cons_self, hr, hlen⟩
    | ok u =>
      rw [hostOps_cons_ok hop] at h
      obtain ⟨rom, hmem, hrom⟩ := ih h
      exact ⟨rom, List.mem_cons_of_mem _ hmem, hrom⟩

/-- A turn is refused for an operation in its gap, or for the cycle it would drive on a late ROM. -/
theorem hostPhase_refused {s : State} {r : Refusal} (h : s.hostPhase = .error r) :
    s.hostGap = .error r ∨
      (r = .romLoadAfterFirstCycle ∧ s.nextDrive.input ≠ none ∧ ∃ u, s.hostGap = .ok u ∧ u.runsLateRom = true) := by
  cases hg : s.hostGap with
  | error r' => exact .inl (by simpa only [State.hostPhase, hg] using h)
  | ok u =>
    cases hi : s.nextDrive.input with
    | none => simp only [State.hostPhase, hg, hi, reduceCtorEq] at h
    | some c =>
      by_cases hl : u.runsLateRom = true
      · simp only [State.hostPhase, hg, hi, if_pos hl, Except.error.injEq] at h
        exact .inr ⟨h.symm, Option.some_ne_none c, u, rfl, hl⟩
      · simp only [State.hostPhase, hg, hi, if_neg hl, reduceCtorEq] at h

/-- A host that would run a late ROM: one stands, and the executor is Running. -/
theorem runsLateRom_iff (s : State) : s.runsLateRom = true ↔ s.lateRom = true ∧ s.status = .running := by
  simp [State.runsLateRom]

/-- A step is refused for one of two moves of the host, and for no other reason. -/
theorem step_refused {s : State} {r : Refusal} (h : step s = .refused r) :
    (∃ rom, HostOp.loadRom rom ∈ s.nextDrive.before ∧ r = .romTooLong rom.length ∧ 3584 < rom.length) ∨
      (r = .romLoadAfterFirstCycle ∧ s.nextDrive.input ≠ none ∧
        ∃ u, s.hostGap = .ok u ∧ u.lateRom = true ∧ u.status = .running) := by
  obtain ⟨t, ht⟩ | ⟨r', hr, hstep⟩ := step_answers_or_refused s
  · cases ht.symm.trans h
  · cases hstep.symm.trans h
    obtain hgap | ⟨hr, hi, u, hu, hl⟩ := hostPhase_refused hr
    · exact .inl (hostOps_refused hgap)
    · exact .inr ⟨hr, hi, u, hu, (runsLateRom_iff u).mp hl⟩

/-- Operations with no ROM load among them note no late one. -/
theorem hostOps_lateRom {s t : State} {ops : List HostOp} (hs : s.lateRom = false) (hops : ∀ rom, HostOp.loadRom rom ∉ ops)
    (h : s.hostOps ops = .ok t) : t.lateRom = false := by
  induction ops generalizing s with
  | nil => exact Except.ok.inj h ▸ hs
  | cons op ops ih =>
    have hrest : ∀ rom, HostOp.loadRom rom ∉ ops := fun rom hmem => hops rom (List.mem_cons_of_mem _ hmem)
    cases op with
    | loadRom rom => exact absurd List.mem_cons_self (hops rom)
    | reset => exact ih (s := s.resetMachine) rfl hrest h
    | tick => exact ih (s := s.tick) hs hrest h
    | clearDirty => exact ih (s := s.clearDirty) hs hrest h

/-- Settles O49: `exec_answers`, and a step that did not answer would be one of the two refusals of `step_refused`, which the
hypotheses of the two answering clauses exclude. -/
theorem everyCycleHasSuccessor : Obligations.EveryCycleHasSuccessor := by
  refine ⟨exec_answers, fun s hlate hrom => step_answers_of_not_refused fun r hr => ?_,
    fun s hinput hrom => step_answers_of_not_refused fun r hr => ?_, fun _ _ => step_refused⟩
  · obtain ⟨rom, hmem, -⟩ | ⟨-, -, u, hgap, hu, -⟩ := step_refused hr
    · exact hrom rom hmem
    · cases hu.symm.trans (hostOps_lateRom (s := { s with host := s.host.tail }) hlate hrom hgap)
  · obtain ⟨rom, hmem, -, hlen⟩ | ⟨-, hdrives, -⟩ := step_refused hr
    · exact Nat.not_le.mpr hlen (hrom rom hmem)
    · exact hdrives hinput

end Sys2Proof.Machine
end

section
/-! SUPPORT. The statements of 60_exceptions.md section 5 about a turn that drives a cycle (R190, R191) and about the ROM the cycle
runs (R192, R195, R212). -/

namespace Sys2Proof.Machine

/-! A turn that drives a cycle. -/

section
variable {s u : State} {ops : List HostOp} {c : CycleInput} {rest : List Drive}

/-- The host's part of the turn: the cycle's input is presented, unless the cycle would run a late ROM. -/
theorem hostPhase_of_turn_with_cycle (hhost : s.host = ⟨ops, some c⟩ :: rest)
    (hops : ({ s with host := rest } : State).hostOps ops = .ok u) :
    s.hostPhase = if u.runsLateRom = true then .error .romLoadAfterFirstCycle else .ok (u.present c) := by
  have hgap : s.hostGap = .ok u := (hostGap_of_host_cons hhost).trans hops
  have hdrive := nextDrive_of_host_cons hhost
  simp only [State.hostPhase, hgap, hdrive]

/-- The step is then the cycle from the state the host's part leaves, or the refusal of that part. -/
theorem step_of_hostPhase_ok (hhost : s.host = ⟨ops, some c⟩ :: rest) (hphase : s.hostPhase = .ok u) : step s = cycle u := by
  have hdrive := nextDrive_of_host_cons hhost
  simp only [step, hphase, hdrive]

theorem step_of_hostPhase_error {r : Refusal} (hphase : s.hostPhase = .error r) : step s = .refused r := by
  simp only [step, hphase]

end

/-- No operation of the host moves its own schedule. -/
theorem hostOp_host {s t : State} {op : HostOp} (h : s.hostOp op = .ok t) : t.host = s.host := by
  obtain ⟨-, rfl⟩ | ⟨rom, -, -, rfl⟩ | ⟨-, rfl⟩ | ⟨-, rfl⟩ := hostOp_cases s t op h <;> rfl

theorem hostOps_host {s t : State} {ops : List HostOp} (h : s.hostOps ops = .ok t) : t.host = s.host :=
  hostOps_induct (fun u => u.host = s.host) (fun _ _ _ hu hop => (hostOp_host hop).trans hu) ops s t rfl h

/-- Presenting an input touches `KEY` and the host's side alone (R191). -/
theorem State.present_frame (s : State) (c : CycleInput) : FrameBut s (s.present c) [] [.key, .hostSide] :=
  ⟨fun _ _ => rfl, fun p hp => by cases p <;> simp_all [Part.same]⟩

/-- Settles O59: the list of operations by its recursion, then the cycle from the state with its input presented. -/
theorem keyEventReachesItsCycle : Obligations.KeyEventReachesItsCycle := by
  refine fun s ops => ⟨rfl, fun op u h => hostOps_cons_ok h ops, fun op r h => hostOps_cons_refused h ops, ?_⟩
  intro c rest u hhost hops hfree
  have hruns : ¬ u.runsLateRom = true := by
    rw [runsLateRom_iff]
    rintro ⟨hlate, hrun⟩
    obtain h | h := hfree
    · cases hlate.symm.trans h
    · cases hrun.symm.trans h
  have hphase : s.hostPhase = .ok (u.present c) := (hostPhase_of_turn_with_cycle hhost hops).trans (if_neg hruns)
  exact ⟨u.present c, hphase, step_of_hostPhase_ok hhost hphase, rfl, hostOps_host hops,
    fun k hk => by rw [State.present_key, hk, Option.getD_some], fun hk => by rw [State.present_key, hk, Option.getD_none],
    rfl, rfl, u.present_frame c⟩

/-! The state a ROM load leaves (R192). -/

section
variable (s : State) (rom : List Byte)

theorem State.withRom_byteAt (a : Nat) :
    (s.withRom rom).byteAt a = if 0x200 ≤ a ∧ a < 0x200 + rom.length then rom.getD (a - 0x200) 0 else s.byteAt a :=
  readByte_writeBytes rom s.mem 0x200 a

/-- Byte k of the image is at `PROGRAM_ORIGIN + k`. -/
theorem State.withRom_byteAt_origin_add (k : Nat) (h : k < rom.length) : (s.withRom rom).byteAt (0x200 + k) = rom[k] := by
  rw [State.withRom_byteAt, if_pos (by omega), Nat.add_sub_cancel_left, List.getD_eq_getElem _ _ h]

theorem State.withRom_outside : MemoryFrameOutside s (s.withRom rom) 0x200 rom.length := s.setMem_writeBytes_outside 0x200 rom

theorem State.setLateRom_frame (b : Bool) : FrameBut s (s.setLateRom b) [] [.lateRom] :=
  ⟨fun _ _ => rfl, fun p hp => by cases p <;> simp_all [Part.same]⟩

theorem State.withRom_frame : FrameBut s (s.withRom rom) [] [.memory, .lateRom] :=
  (s.setMem_frame _).seq (State.setLateRom_frame _ _)

/-- Before the first cycle since reset, a load changes no note of a late one (R192). -/
theorem State.withRom_lateRom_of_no_report (h : s.report = none) : (s.withRom rom).lateRom = s.lateRom := by
  simp [State.withRom, h]

/-- After it, the load is noted as late. -/
theorem State.withRom_lateRom_of_report (h : s.report ≠ none) : (s.withRom rom).lateRom = true := by
  simp [State.withRom, Option.isSome_iff_ne_none.mpr h]

end

/-- With `PC` at the reset address, the first two bytes of the image are the word fetched, high byte first (R54, R212). -/
theorem State.withRom_fetch (s : State) {rom : List Byte} (hpc : s.pc = 0x200) (b0 b1 : Byte) (rest : List Byte)
    (hrom : rom = b0 :: b1 :: rest) : (s.withRom rom).fetch = .ok (wordOfBytes b0 b1) := by
  subst hrom
  have hpc' : (s.withRom (b0 :: b1 :: rest)).pc.toNat = 0x200 := congrArg BitVec.toNat hpc
  have h0 := s.withRom_byteAt_origin_add (b0 :: b1 :: rest) 0 (by simp)
  have h1 := s.withRom_byteAt_origin_add (b0 :: b1 :: rest) 1 (by simp)
  rw [fetch_ok _ (by omega), hpc', h0, h1]
  rfl

/-- A reset leaves nothing of an image loaded before it: the two are the reset alone (R212). -/
theorem State.resetMachine_withRom (s : State) (rom : List Byte) : (s.withRom rom).resetMachine = s.resetMachine := rfl

theorem hostOps_load_reset (s : State) {rom : List Byte} (h : rom.length ≤ 3584) :
    s.hostOps [.loadRom rom, .reset] = s.hostOps [.reset] := by
  rw [hostOps_cons_ok (op := .loadRom rom) (loadRom_fits s h), hostOps_cons_ok rfl, hostOps_cons_ok rfl,
    State.resetMachine_withRom]

theorem hostOps_reset_load (s : State) {rom : List Byte} (h : rom.length ≤ 3584) :
    s.hostOps [.reset, .loadRom rom] = .ok (s.resetMachine.withRom rom) := by
  rw [hostOps_cons_ok rfl, hostOps_cons_ok (op := .loadRom rom) (loadRom_fits _ h), State.hostOps]

/-- Running on while a late ROM stands is refused (R195, U18). -/
theorem step_refused_of_late_rom {s : State} {c : CycleInput} {rest : List Drive} (hhost : s.host = ⟨[], some c⟩ :: rest)
    (hlate : s.lateRom = true) (hrun : s.status = .running) : step s = .refused .romLoadAfterFirstCycle :=
  step_of_hostPhase_error ((hostPhase_of_turn_with_cycle hhost rfl).trans (if_pos ((runsLateRom_iff _).mpr ⟨hlate, hrun⟩)))

/-- Settles O58: an image that fits by the state `withRom` it leaves, alone and on either side of a reset; one that does not, and a
late one run on, by their refusals. -/
theorem romLoadRule : Obligations.RomLoadRule := by
  refine fun s rom => ⟨fun h => ⟨?load, hostOps_load_reset s h, ?resetThenLoad⟩, loadRom_too_long s,
    fun c rest => step_refused_of_late_rom⟩
  case load =>
    exact ⟨s.withRom rom, loadRom_fits s h, s.withRom_byteAt_origin_add rom, s.withRom_outside rom, rfl, rfl,
      s.withRom_frame rom, s.withRom_lateRom_of_no_report rom, s.withRom_lateRom_of_report rom,
      fun b0 b1 rest hrom hpc => s.withRom_fetch hpc b0 b1 rest hrom⟩
  case resetThenLoad =>
    exact ⟨s.resetMachine.withRom rom, hostOps_reset_load s h, rfl, rfl, rfl, s.resetMachine.withRom_fetch rfl⟩

end Sys2Proof.Machine
end

section
/-! SUPPORT. The hazard of 70_reset_and_hazards.md about CALL and RET (R216): the address pushed is the CALL's own, and RET adds
nothing to it. -/

namespace Sys2Proof.Machine

/-- CALL with room moves `SP` up, stores its own address there, sets `PC` to its target and completes (R102). -/
theorem exec_call_of_room (nnn : Addr12) {s : State} (h : s.sp ≠ 15) : exec (.call nnn) s =
    .next ((((s.setSp (s.sp + 1)).setSlot (s.sp + 1) s.pc).setPc (zextAddr nnn)).setReport .running) := by
  rw [exec, execCall, if_neg h]
  rfl

/-- RET with a call to return from loads `PC` from the slot `SP` points at, moves `SP` down and completes (R100). -/
theorem exec_ret_of_nonempty {s : State} (h : s.sp ≠ 0) :
    exec .ret s = .next (((s.setPc (s.slot s.sp)).setSp (s.sp - 1)).setReport .running) := by
  rw [exec, execRet, if_neg h]
  rfl

/-- The depth above one that has room is not 0: it has not wrapped around. -/
theorem sp_add_one_ne_zero {j : BitVec 4} (h : j ≠ 15) : j + 1 ≠ 0 := by bv_omega

/-- Settles O23: RET finds in the slot at the new `SP` what CALL stored there (`call_slot_sp`), and one up and one down is the old `SP`. -/
theorem retReturnsToTheCall : Obligations.RetReturnsToTheCall := by
  intro nnn s hroom
  have hcall := exec_call_of_room nnn hroom
  refine ⟨_, _, hcall, exec_ret_of_nonempty (sp_add_one_ne_zero hroom), ?pc, ?sp, ?moved⟩
  case pc => exact call_slot_sp nnn s _ hroom hcall
  case sp => exact BitVec.add_sub_cancel s.sp 1
  case moved => simp

end Sys2Proof.Machine
end

section
/-! SUPPORT. Source form and word of an instruction (R72, R74, R84): packing its operands gives the word the encoder writes, and
decoding that word gives the instruction back. -/

namespace Sys2Proof.Machine

/-- The operands of an instruction are the values of the fields of its class (R84, R85). -/
theorem fieldOperands_of_instr (i : Instr) : FieldOperands i.mnemonic i.operands := by
  cases i with
  | cls | ret => exact .a rfl
  | jump nnn | call nnn | loadi nnn | jumpi nnn => exact .b rfl nnn
  | ske x nn | skne x nn | load x nn | add x nn | rand x nn => exact .c rfl x nn
  | skre x y | move x y | or x y | and x y | xor x y | addr x y | sub x y | subb x y | jneq x y => exact .d rfl rfl x y
  | shr x | shl x => exact .shift rfl rfl x
  | skpr x | skup x | moved x | keyd x | loadd x | loads x | addi x | ldspr x | bcd x | push x | pop x => exact .e rfl x
  | draw x y n => exact .f rfl x y n

/-- Operands that are values of the fields of the class pass the checks of R84 and R85. -/
theorem wellFormed_of_fieldOperands {m : Mnemonic} {operands : List Nat} (h : FieldOperands m operands) :
    SourceInstr.wellFormed ⟨m, operands⟩ = true := by
  have hnibble (x : Nibble) : fitsNibble x.toNat = true := fitsNibble_iff.mpr ⟨x, rfl⟩
  have hbyte (nn : Byte) : fitsByte nn.toNat = true := fitsByte_iff.mpr ⟨nn, rfl⟩
  have haddr (nnn : Addr12) : fitsAddr nnn.toNat = true := fitsAddr_iff.mpr ⟨nnn, rfl⟩
  cases h with
  | a hc | b hc | c hc | e hc | f hc => simp [SourceInstr.wellFormed, hc, hnibble, hbyte, haddr]
  | d hc hy | shift hc hy => simp [SourceInstr.wellFormed, hc, hy, hnibble]

/-- The decoder finds in the word of an instruction its keyword and its operands, class by class. -/
theorem decode_encode (i : Instr) : decode (encode i) = .ok i := by
  cases i with
  | cls | ret => rfl
  | jump | call | loadi | jumpi => simp only [encode, decode, opTop_B, opNnn_B]
  | ske | skne | load | add | rand => simp only [encode, decode, opTop_C, opX_C, opNn_C]
  | skre | jneq => simp only [encode, decode, opTop_D, opX_D, opY_D, opN_D, if_true]
  | draw => simp only [encode, decode, opTop_D, opX_D, opY_D, opN_D]
  | move | or | and | xor | addr | sub | shr | subb | shl =>
    simp only [encode, decode, decodeGroup8, opTop_D, opX_D, opY_D, opN_D]
  | skpr | skup => simp only [encode, decode, decodeGroupE, opTop_C, opX_C, opNn_C]
  | moved | keyd | loadd | loads | addi | ldspr | bcd | push | pop =>
    simp only [encode, decode, decodeGroupF, opTop_C, opX_C, opNn_C]
    rfl

/-- Decoding the bytes of a word that decodes takes those two bytes (R70, R86). -/
theorem decodeBytes_bytesOfWord_append {op : Word} {i : Instr} (h : decode op = .ok i) (rest : List Byte) :
    decodeBytes (bytesOfWord op ++ rest) = .ok (i, rest) := by
  simp only [bytesOfWord, List.cons_append, List.nil_append, decodeBytes, wordOfBytes_bytesOfWord, h]

/-- Settles O2: the round trip of the word, by the fields of its class, and then of its two bytes. -/
theorem decodeInvertsEncode : Obligations.DecodeInvertsEncode := fun i rest =>
  ⟨decode_encode i, decodeBytes_bytesOfWord_append (decode_encode i) rest⟩

/-! The other direction: the word from its fields. -/

/-- The mask of the one ignored field, `y` of SHR and SHL (R78). -/
theorem word_mask_y (t x y n : Nibble) : (t ++ x ++ y ++ n) &&& 0xFF0F#16 = t ++ x ++ 0#4 ++ n := by
  apply BitVec.eq_of_getLsbD_eq
  intro i hi
  have h : ((t ++ x ++ y ++ n) &&& 0xFF0F#16).getLsbD i = ((t ++ x ++ y ++ n).getLsbD i && (0xFF0F#16).getLsbD i) :=
    BitVec.getLsbD_and
  rw [h]
  simp only [BitVec.getLsbD_append]
  interval_cases i <;> simp

theorem and_mask_y (op : Word) : op &&& 0xFF0F#16 = opTop op ++ opX op ++ 0#4 ++ opN op :=
  (congrArg (· &&& 0xFF0F#16) (word_eq_D op)).trans (word_mask_y _ _ _ _)

/-- A word that carries a template is packed from its own operand fields, but for the ignored `y`. -/
theorem pack_operandFields {m : Mnemonic} {op : Word} (h : m.Matches op) :
    SourceInstr.pack ⟨m, operandFields m op⟩ = some (if m.ignoresY = true then op &&& 0xFF0F else op) := by
  have htop := h.opTop_eq
  by_cases hy : m.ignoresY = true
  · have hc := operandClass_of_ignoresY hy
    obtain ⟨-, hn⟩ := (Mnemonic.matches_iff_D hc).mp h
    have hfields : operandFields m op = [(opX op).toNat] := by simp [operandFields, hc, hy]
    rw [hfields, pack_D_ignoresY hc hy, ← htop, ← hn, if_pos hy]
    exact congrArg some (and_mask_y op).symm
  · rw [if_neg hy]
    replace hy := Bool.eq_false_of_not_eq_true hy
    cases hc : m.operandClass with
    | a =>
      simp only [operandFields, hc]
      rw [pack_A hc, (Mnemonic.matches_iff_A hc).mp h]
    | b =>
      simp only [operandFields, hc]
      rw [pack_B hc, ← htop, ← word_eq_B]
    | c =>
      simp only [operandFields, hc]
      rw [pack_C hc, ← htop, ← word_eq_C]
    | d =>
      obtain ⟨-, hn⟩ := (Mnemonic.matches_iff_D hc).mp h
      simp only [operandFields, hc, hy, Bool.false_eq_true, if_false]
      rw [pack_D hc hy, ← htop, ← hn, ← word_eq_D]
    | e =>
      obtain ⟨-, hnn⟩ := (Mnemonic.matches_iff_E hc).mp h
      simp only [operandFields, hc]
      rw [pack_E hc, ← htop, ← hnn, ← word_eq_C]
    | f =>
      simp only [operandFields, hc]
      rw [pack_F hc, ← htop, ← word_eq_D]

/-- The word of an instruction holds 0 in the ignored `y` (R78). -/
theorem encode_and_mask_y {i : Instr} (h : i.mnemonic.ignoresY = true) : encode i &&& 0xFF0F = encode i := by
  cases i with
  | shr x | shl x => exact word_mask_y _ x 0 _
  | _ => cases h

/-- The fields of a word that decodes are the operands of its instruction, so packing them gives the word, but for the ignored
`y`. -/
theorem pack_source_of_decode {op : Word} {i : Instr} (h : decode op = .ok i) :
    i.source.pack = some (if i.mnemonic.ignoresY = true then op &&& 0xFF0F else op) := by
  have hmatches := matches_of_decode h
  obtain ⟨j, hj, hsource⟩ := decode_of_matches hmatches
  obtain rfl : j = i := Except.ok.inj (hj.symm.trans h)
  rw [hsource, pack_operandFields hmatches]

/-- The packing formula of each class writes the word of R74. -/
theorem pack_source (i : Instr) : i.source.pack = some (encode i) := by
  rw [pack_source_of_decode (decode_encode i)]
  split
  next hy => rw [encode_and_mask_y hy]
  next => rfl

/-- Settles O8: the operands are values of the fields of the class, and the class formula puts each in its field. -/
theorem packingAgreesWithEncode : Obligations.PackingAgreesWithEncode := fun i =>
  ⟨wellFormed_of_fieldOperands (fieldOperands_of_instr i), pack_source i⟩

/-- A word that decodes is the word of its instruction, but for the ignored `y`. -/
theorem encode_of_decode {op : Word} {i : Instr} (h : decode op = .ok i) :
    encode i = if i.mnemonic.ignoresY = true then op &&& 0xFF0F else op :=
  Option.some.inj ((pack_source i).symm.trans (pack_source_of_decode h))

theorem ignoresY_iff (m : Mnemonic) : m.ignoresY = true ↔ m = .shr ∨ m = .shl := by
  cases m <;> simp [Mnemonic.ignoresY]

/-- Settles O6: packing the operands of a decoded word gives that word back, and packing is encoding. -/
theorem encodeInvertsDecode : Obligations.EncodeInvertsDecode := by
  intro op i h
  rw [encode_of_decode h]
  refine ⟨fun ⟨hshr, hshl⟩ => if_neg ?_, fun hshift => if_pos ((ignoresY_iff _).mpr hshift)⟩
  exact fun hy => ((ignoresY_iff _).mp hy).elim hshr hshl

/-! The opcode map (R74). -/

/-- Each row holds the template and the class mask of its keyword. -/
theorem opcodeMap_row : ∀ row ∈ opcodeMap, row.template = row.mnemonic.template ∧ row.mask = row.mnemonic.operandClass.mask := by
  decide

theorem accepts_iff_matches {row : OpcodeRow} (hrow : row ∈ opcodeMap) (op : Word) :
    row.accepts op = true ↔ row.mnemonic.Matches op := by
  obtain ⟨htemplate, hmask⟩ := opcodeMap_row row hrow
  rw [OpcodeRow.accepts, beq_iff_eq, htemplate, hmask, Mnemonic.Matches]

/-- A word that decodes carries one template only, that of its instruction's keyword. -/
theorem matches_iff_of_decode {op : Word} {i : Instr} (h : decode op = .ok i) (m : Mnemonic) :
    m.Matches op ↔ m = i.mnemonic := by
  constructor
  · intro hm
    obtain ⟨j, hj, hsource⟩ := decode_of_matches hm
    obtain rfl : j = i := Except.ok.inj (hj.symm.trans h)
    exact (congrArg SourceInstr.mnemonic hsource).symm
  · rintro rfl
    exact matches_of_decode h

/-- A word that does not decode carries no template. -/
theorem not_matches_of_decode_error {op : Word} {e : DecodeError} (h : decode op = .error e) (m : Mnemonic) : ¬ m.Matches op := by
  intro hm
  obtain ⟨i, hi, -⟩ := decode_of_matches hm
  cases h.symm.trans hi

/-! The words that are refused (R77): by group, and then by the top nibble. -/

section
variable {op : Word} {e : DecodeError}

theorem decodeGroup0_error_iff : decodeGroup0 op = .error e ↔ e = .unrecognized op ∧ op ≠ 0x00E0 ∧ op ≠ 0x00EE := by
  unfold decodeGroup0
  split
  next hcls => simp [hcls]
  next hcls =>
    split
    next hret => simp [hret]
    next hret => simp [hcls, hret, eq_comm (a := e)]

theorem decodeGroup8_error_iff : decodeGroup8 op = .error e ↔
    e = .unrecognized op ∧ opN op ∈ ([0x8, 0x9, 0xA, 0xB, 0xC, 0xD, 0xF] : List Nibble) := by
  have hrest : ∀ n : Nibble, n ∈ ([0x8, 0x9, 0xA, 0xB, 0xC, 0xD, 0xF] : List Nibble) ↔
      n ∉ ([0x0, 0x1, 0x2, 0x3, 0x4, 0x5, 0x6, 0x7, 0xE] : List Nibble) := by decide
  rw [hrest]
  unfold decodeGroup8
  split <;> simp_all [eq_comm (a := e)]

theorem decodeGroupE_error_iff : decodeGroupE op = .error e ↔ e = .unrecognized op ∧ opNn op ≠ 0x9E ∧ opNn op ≠ 0xA1 := by
  unfold decodeGroupE
  split <;> simp_all [eq_comm (a := e)]

theorem decodeGroupF_error_iff : decodeGroupF op = .error e ↔
    e = .unrecognized op ∧ opNn op ∉ ([0x07, 0x0A, 0x15, 0x18, 0x1E, 0x29, 0x33, 0x55, 0x65] : List Byte) := by
  unfold decodeGroupF
  split <;> simp_all [eq_comm (a := e)]

theorem ite_opN_error_iff {i : Instr} : (if opN op = 0#4 then Except.ok i else .error (.unrecognized op)) = .error e ↔
    e = .unrecognized op ∧ opN op ≠ 0#4 := by
  split
  next hn => simp [hn]
  next hn => simp [hn, eq_comm (a := e)]

/-- The six groups of words that are no instruction (R77; the spec's decisions D9 to D11). -/
def UnrecognizedWord (op : Word) : Prop :=
  (opTop op = 0x0 ∧ op ≠ 0x00E0 ∧ op ≠ 0x00EE) ∨ (opTop op = 0x5 ∧ opN op ≠ 0) ∨
    (opTop op = 0x8 ∧ opN op ∈ ([0x8, 0x9, 0xA, 0xB, 0xC, 0xD, 0xF] : List Nibble)) ∨ (opTop op = 0x9 ∧ opN op ≠ 0) ∨
    (opTop op = 0xE ∧ opNn op ≠ 0x9E ∧ opNn op ≠ 0xA1) ∨
    (opTop op = 0xF ∧ opNn op ∉ ([0x07, 0x0A, 0x15, 0x18, 0x1E, 0x29, 0x33, 0x55, 0x65] : List Byte))

/-- A word is refused, and by its own name, exactly when it is in one of the six groups. In `case h_k` the top nibble is `k - 1`. -/
theorem decode_error_iff : decode op = .error e ↔ e = .unrecognized op ∧ UnrecognizedWord op := by
  unfold decode UnrecognizedWord
  split
  case h_1 ht => simp [decodeGroup0_error_iff, ht]
  case h_6 ht | h_10 ht => exact ite_opN_error_iff.trans (by simp [ht])
  case h_9 ht => simp [decodeGroup8_error_iff, ht]
  case h_15 ht => simp [decodeGroupE_error_iff, ht]
  case h_16 =>
    have ht : opTop op = 0xF := by
      simp only [imp_false] at *
      bv_omega
    simp [decodeGroupF_error_iff, ht]
  all_goals
    rename_i ht
    simp [ht]

end

/-- Settles O5: the words of the six groups, among which refusal is by the word's own name. -/
theorem unrecognizedWordsAreExactly : Obligations.UnrecognizedWordsAreExactly := fun _ =>
  decode_error_iff.trans (and_iff_right rfl)

/-- Settles O4: a word is accepted by the rows whose template it carries, and it carries one exactly when it decodes. -/
theorem decodeFollowsOpcodeMap : Obligations.DecodeFollowsOpcodeMap := by
  refine fun op => ⟨fun i h row hrow => ?_, fun e h => ⟨(decode_error_iff.mp h).left, fun row hrow => ?_⟩⟩
  · rw [accepts_iff_matches hrow, matches_iff_of_decode h]
  · exact Bool.eq_false_of_not_eq_true fun hacc => not_matches_of_decode_error h _ ((accepts_iff_matches hrow op).mp hacc)

/-- Settles O1: the words of the spec's decode vectors, by running the decoder. -/
theorem sampleWordsDecode : Obligations.SampleWordsDecode := by
  unfold Obligations.SampleWordsDecode
  decide

end Sys2Proof.Machine
end

section
/-! SUPPORT. The invariant of reachable states (R38): each update of the state that an instruction or the host makes keeps it, so every
instruction does, and so does every step. -/

namespace Sys2Proof.Machine

/-! Updates of the state. What an update leaves alone it keeps by definition; the value written answers for the rest. -/

section
variable {s : State} (h : Inv s)
include h

theorem Inv.setReg (x : Nibble) (b : Byte) : Inv (s.setReg x b) := { h with }

theorem Inv.setFlag (b : Bool) : Inv (s.setFlag b) := { h with }

theorem Inv.setDt (b : Byte) : Inv (s.setDt b) := { h with }

theorem Inv.setSt (b : Byte) : Inv (s.setSt b) := { h with }

theorem Inv.setDirty (b : Bool) : Inv (s.setDirty b) := { h with }

theorem Inv.setSp (j : BitVec 4) : Inv (s.setSp j) := { h with }

theorem Inv.countDraw : Inv s.countDraw := { h with }

theorem Inv.setLateRom (b : Bool) : Inv (s.setLateRom b) := { h with }

theorem Inv.setReport (r : Report) : Inv (s.setReport r) := { h with }

theorem Inv.raise (f : MachineFault) : Inv (s.raise f) := { h with }

theorem Inv.present (c : CycleInput) : Inv (s.present c) := { h with }

theorem Inv.setI {w : Word} (hw : w.toNat ≤ 0xFFF) : Inv (s.setI w) := { h with index := hw }

theorem Inv.setPc {w : Word} (hw : w.toNat ≤ 0x10FE) : Inv (s.setPc w) := { h with pc := hw }

theorem Inv.setMem {m : List Host.Cell} (hm : Memory.wf m) : Inv (s.setMem m) := { h with memory := hm }

theorem Inv.setFb {fb : List Host.Cell} (hfb : FrameBuffer.wf fb) : Inv (s.setFb fb) := { h with frameBuffer := hfb }

theorem Inv.setSlot {j : BitVec 4} {w : Word} (hj : j ≠ 0) (hw : w.toNat ≤ 0xFFE) : Inv (s.setSlot j w) :=
  { h with
    slotZero := by rw [State.setSlot_slot, if_neg hj.symm]; exact h.slotZero
    slots := fun q => by
      rw [State.setSlot_slot]
      split
      · exact hw
      · exact h.slots q }

theorem Inv.setRegsFrom (k : Nat) (bytes : List Byte) : Inv (s.setRegsFrom k bytes) := by
  rw [State.setRegsFrom_eq]
  exact { h with }

/-- From a fetched instruction (R54) the advance of `PC` ends below its bound. -/
theorem Inv.advance {k : Word} (hk : k.toNat ≤ 4) (hpc : s.pc.toNat ≤ 4094) : Inv (s.advance k) :=
  h.setPc (by rw [BitVec.toNat_add]; omega)

theorem Inv.nextInsn (hpc : s.pc.toNat ≤ 4094) : Inv s.nextInsn := h.advance (by decide) hpc

theorem Inv.skipIf (hpc : s.pc.toNat ≤ 4094) (c : Bool) : Inv (s.skipIf c) := by
  cases c with
  | true => exact h.advance (by decide) hpc
  | false => exact h.advance (by decide) hpc

/-- A block that passes its range check keeps the canonical form of memory. -/
theorem Inv.storeBlock_nextInsn {t : State} {base : Nat} {bytes : List Byte} (hstore : s.storeBlock base bytes = .ok t)
    (hpc : s.pc.toNat ≤ 4094) : Inv t.nextInsn := by
  obtain ⟨rfl | hfits, rfl⟩ := storeBlock_cases s t base bytes hstore
  · exact (h.setMem h.memory).nextInsn hpc
  · exact (h.setMem (memory_wf_writeBytes bytes s.mem base h.memory hfits)).nextInsn hpc

end

/-! Ends of instructions. -/

/-- An outcome whose next state, if it has one, meets the invariant. -/
def AnswersInv (o : Host.Outcome State Fault Refusal) : Prop := ∀ t, o = .next t → Inv t

theorem AnswersInv.next {t : State} (h : Inv t) : AnswersInv (.next t) := fun _ heq => Host.Outcome.next.inj heq ▸ h

theorem Inv.complete {s : State} (h : Inv s) : AnswersInv s.complete := .next (h.setReport .running)

theorem Inv.finish {s : State} (h : Inv s) {r : Except MachineFault State} (hr : ∀ t, r = .ok t → Inv t) :
    AnswersInv (s.finish r) := by
  cases r with
  | ok t => exact (hr t rfl).complete
  | error f => exact .next (h.raise f)

/-! Bounds of the values instructions write. -/

theorem zextAddr_le (nnn : Addr12) : (zextAddr nnn).toNat ≤ 0xFFF := by
  rw [zextAddr_toNat]
  omega

theorem glyphAddress_toNat (b : Byte) : (glyphAddress b).toNat = fontBase + 5 * (b.toNat % 16) := by
  have hlow : b.toNat % 16 < 16 := Nat.mod_lt _ (by decide)
  exact Nat.mod_eq_of_lt (by simp only [fontBase, glyphBytes]; omega)

theorem glyphAddress_le (b : Byte) : (glyphAddress b).toNat ≤ 0xFFF := by
  have hlow : b.toNat % 16 < 16 := Nat.mod_lt _ (by decide)
  rw [glyphAddress_toNat, fontBase]
  omega

/-- What ADDI writes to `I` (R141): 12 bits of the sum. -/
def State.addiIndex (s : State) (x : Nibble) : Word := BitVec.ofNat 16 ((s.i.toNat + (s.reg x).toNat) % 4096)

theorem State.addiIndex_toNat (s : State) (x : Nibble) : (s.addiIndex x).toNat = (s.i.toNat + (s.reg x).toNat) % 4096 := by
  rw [State.addiIndex, BitVec.toNat_ofNat]
  omega

theorem jumpi_target_toNat (nnn : Addr12) (b : Byte) : (zextAddr nnn + zextByte b).toNat = nnn.toNat + b.toNat := by
  rw [zextAddr_add_zextByte, BitVec.toNat_ofNat]
  omega

section
variable {s : State} (h : Inv s) (hpc : s.pc.toNat ≤ 4094)
include h hpc

omit hpc in
theorem Inv.execRet : AnswersInv (execRet s) := by
  refine h.finish fun t ht => ?_
  split at ht
  next => cases ht
  next =>
    cases ht
    have htarget : (s.slot s.sp).toNat ≤ 0xFFE := h.slots s.sp
    exact (h.setPc (by omega)).setSp _

theorem Inv.execCall (nnn : Addr12) : AnswersInv (execCall nnn s) := by
  refine h.finish fun t ht => ?_
  split at ht
  next => cases ht
  next hroom =>
    cases ht
    have htarget := zextAddr_le nnn
    exact ((h.setSp _).setSlot (sp_add_one_ne_zero hroom) hpc).setPc (by omega)

theorem Inv.execBcd (x : Nibble) : AnswersInv (execBcd x s) := by
  refine h.finish fun t ht => ?_
  split at ht
  next u hu =>
    cases ht
    exact h.storeBlock_nextInsn hu hpc
  next => cases ht

theorem Inv.execPush (x : Nibble) : AnswersInv (execPush x s) := by
  refine h.finish fun t ht => ?_
  split at ht
  next u hu =>
    cases ht
    exact h.storeBlock_nextInsn hu hpc
  next => cases ht

theorem Inv.execPop (x : Nibble) : AnswersInv (execPop x s) := by
  refine h.finish fun t ht => ?_
  split at ht
  next bytes _ =>
    cases ht
    exact (h.setRegsFrom 0 bytes).nextInsn (by rwa [State.setRegsFrom_pc])
  next => cases ht

theorem Inv.execDraw (x y n : Nibble) : AnswersInv (execDraw x y n s) := by
  refine h.finish fun t ht => ?_
  split at ht
  next rows _ =>
    cases ht
    exact (((h.setFb (drawRows_wf _ rows _ _ h.frameBuffer)).setFlag _).setDirty true).nextInsn hpc
  next => cases ht

theorem Inv.execKeyd (x : Nibble) : AnswersInv (execKeyd x s) := by
  unfold Machine.execKeyd
  split
  next => exact .next (h.setReport .needsInput)
  next k _ => exact ((h.setReg x k).nextInsn hpc).complete

theorem Inv.execAddi (x : Nibble) : AnswersInv (execAddi x s) := by
  have hi : Inv (s.setI (s.addiIndex x)) := h.setI (by rw [State.addiIndex_toNat]; omega)
  unfold Machine.execAddi
  split
  next => exact ((hi.setFlag true).nextInsn hpc).complete
  next => exact (hi.nextInsn hpc).complete

/-- A fetched instruction keeps the invariant, whichever it is. -/
theorem Inv.exec (i : Instr) : AnswersInv (exec i s) := by
  cases i with
  | cls => exact (((h.setFb (fb := []) ⟨⟨.nil, by simp⟩, by simp⟩).setDirty true).nextInsn hpc).complete
  | ret => exact h.execRet
  | jump nnn => exact (h.setPc ((zextAddr_le nnn).trans (by decide))).complete
  | call nnn => exact h.execCall hpc nnn
  | jumpi nnn => exact (h.setPc (by rw [jumpi_target_toNat]; omega)).complete
  | ske _ _ | skne _ _ | skre _ _ | jneq _ _ | skpr _ | skup _ => exact (h.skipIf hpc _).complete
  | load x _ | add x _ | move x _ | or x _ | and x _ | xor x _ | moved x => exact ((h.setReg x _).nextInsn hpc).complete
  | addr x _ | sub x _ | subb x _ => exact (((h.setReg x _).setFlag _).nextInsn hpc).complete
  | shr x | shl x => exact (((h.setFlag _).setReg x _).nextInsn hpc).complete
  | rand x _ => exact ((h.setReg x _).countDraw.nextInsn hpc).complete
  | keyd x => exact h.execKeyd hpc x
  | loadd x => exact ((h.setDt (s.reg x)).nextInsn hpc).complete
  | loads x => exact ((h.setSt (s.reg x)).nextInsn hpc).complete
  | loadi nnn => exact ((h.setI (zextAddr_le nnn)).nextInsn hpc).complete
  | ldspr x => exact ((h.setI (glyphAddress_le _)).nextInsn hpc).complete
  | addi x => exact h.execAddi hpc x
  | bcd x => exact h.execBcd hpc x
  | push x => exact h.execPush hpc x
  | pop x => exact h.execPop hpc x
  | draw x y n => exact h.execDraw hpc x y n

end

/-! Cycles, the host and steps. -/

theorem Inv.cycle {s t : State} (h : Inv s) (hcycle : cycle s = .next t) : Inv t := by
  obtain ⟨-, rfl⟩ | ⟨-, -, rfl⟩ | ⟨_, _, -, -, -, -, rfl⟩ | ⟨_, i, -, hpc, -, -, hexec⟩ := cycle_cases s t hcycle
  · exact h.setReport .halted
  · exact h.raise _
  · exact h.raise _
  · exact h.exec hpc i t hexec

theorem inv_reset : Inv State.reset where
  memory := by decide
  frameBuffer := by decide
  index := by decide
  pc := by decide
  slotZero := by decide
  slots := by decide

/-- What the host has planned is no matter of the invariant. -/
theorem Inv.withHost {s : State} (h : Inv s) (schedule : List Drive) : Inv { s with host := schedule } := { h with }

theorem Inv.hostOp {s t : State} {op : HostOp} (h : Inv s) (hop : s.hostOp op = .ok t) : Inv t := by
  obtain ⟨-, rfl⟩ | ⟨rom, -, hlen, rfl⟩ | ⟨-, rfl⟩ | ⟨-, rfl⟩ := hostOp_cases s t op hop
  · exact { inv_reset with }
  · have hfits : 512 + rom.length ≤ Config.memSize := by
      simp only [Config.memSize]
      omega
    exact (h.setMem (memory_wf_writeBytes rom s.mem 512 h.memory hfits)).setLateRom _
  · exact (h.setDt _).setSt _
  · exact h.setDirty false

/-- Settles O51: the turn of the host keeps the invariant, operation by operation, and so does the cycle it drives, by
`Inv.exec`. -/
theorem stepKeepsInv : Obligations.StepKeepsInv := by
  intro s u h hstep
  obtain ⟨t, hphase, hend⟩ := step_cases s u hstep
  have ht : Inv t := hostPhase_induct Inv s t hphase (h.withHost _) (fun _ _ _ hs => hs.hostOp) fun _ c hs => hs.present c
  obtain ⟨-, rfl⟩ | ⟨_, -, hcycle⟩ := hend
  · exact ht
  · exact ht.cycle hcycle

/-- Settles O50: the reset values one by one. -/
theorem invHoldsAtReset : Obligations.InvHoldsAtReset := fun schedule => ⟨inv_reset.withHost schedule, by simp [FaultRecorded, State.reset]⟩

theorem Reachable.inv {s : State} (h : Reachable s) : Inv s := by
  induction h with
  | start schedule => exact inv_reset.withHost schedule
  | next s t _ hstep ih => exact stepKeepsInv s t ih hstep

/-- Settles O52: the invariant holds at reset and every step keeps it; the cells of a canonical frame buffer hold 0 or 1. -/
theorem reachableStatesObeyInvariants : Obligations.ReachableStatesObeyInvariants := by
  intro s hreach
  have h := hreach.inv
  obtain ⟨-, hcells⟩ := h.frameBuffer
  exact ⟨Nat.le_of_lt_succ s.sp.isLt, h.index, h.pc, fun col _ row _ => pixel_zero_or_one s.fb hcells col row, h.slotZero,
    h.slots, h.memory⟩

end Sys2Proof.Machine
end

section
/-! SUPPORT. The statements of 60_exceptions.md sections 1 and 2: the faults an instruction can raise (R177), the fault record (R175,
R176), and the Halted state, which only a reset leaves (R171, R179). -/

namespace Sys2Proof.Machine

/-! Faults of instructions. -/

section
variable {i : Instr} {s : State}

theorem exec_of_fault {f : MachineFault} (hf : faultOf i s = some f) : exec i s = .next (s.raise f) := by
  have hends := exec_ends i s
  generalize exec i s = o at hends ⊢
  cases hends with
  | faults f' hf' => rw [Option.some.inj (hf.symm.trans hf')]
  | waits hf' | completes _ hf' => cases hf.symm.trans hf'

/-- A listed fault is raised precisely: nothing but the fault record is written. -/
theorem faultsWith_of_faultOf {f : MachineFault} (hf : faultOf i s = some f) : FaultsWith i s f :=
  ⟨_, exec_of_fault hf, rfl, rfl, rfl, rfl, rfl, s.raise_frame f⟩

/-- No row of R39 names the fault record. -/
theorem faultRecord_not_mem_partsWritten (i : Instr) : Part.faultRecord ∉ partsWritten i := by
  cases i <;> simp [partsWritten]

/-- An instruction with no listed fault leaves the fault record alone, whether it completes or waits. -/
theorem exec_of_no_fault (hf : faultOf i s = none) :
    ∃ t, exec i s = .next t ∧ Part.same .faultRecord s t ∧ t.report ≠ some .halted := by
  have hends := exec_ends i s
  generalize exec i s = o at hends ⊢
  cases hends with
  | faults f hf' => cases hf.symm.trans hf'
  | waits => exact ⟨_, rfl, ⟨rfl, rfl, rfl⟩, by simp⟩
  | completes t _ _ ht => exact ⟨t, rfl, ht.frame.2 _ (faultRecord_not_mem_partsWritten i), by simp [ht.report]⟩

end

/-- Settles O48: the ends of an instruction, by `exec_ends`, sorted by whether a fault is listed for it. -/
theorem faultsExactlyWhereListed : Obligations.FaultsExactlyWhereListed := fun _ _ =>
  ⟨fun _ => faultsWith_of_faultOf, exec_of_no_fault⟩

/-- Settles O39: each access past the end has its fault in the list of R177. -/
theorem blockAccessFaults : Obligations.BlockAccessFaults := fun _ _ _ _ =>
  ⟨fun h => faultsWith_of_faultOf (if_pos h),
    fun h => ⟨faultsWith_of_faultOf (if_pos h), faultsWith_of_faultOf (if_pos h)⟩,
    fun hn h => faultsWith_of_faultOf (if_pos ⟨hn, h⟩)⟩

/-- Settles O14: the two outcomes of the range check; the lowest address that is not valid is 4096 unless the block begins above
4095. -/
theorem blockRangeRule : Obligations.BlockRangeRule := by
  intro base m hm
  refine ⟨fun h => rangeFault_none base m (.inr (by omega)), fun h => ?_⟩
  rw [rangeFault_some base m (by omega) (by omega), outOfRange]
  by_cases hbase : base < 4096
  · rw [if_pos hbase, if_neg (by omega)]
  · rw [if_neg hbase, if_pos (by omega)]

/-! The fault record. -/

/-- A listed fault has a code other than none (R175). -/
theorem faultOf_code_ne_none {i : Instr} {s : State} {f : MachineFault} (hf : faultOf i s = some f) : f.code ≠ .none := by
  cases i with
  | ret | call _ | bcd _ | push _ | pop _ | draw _ _ _ =>
    simp only [faultOf, Option.ite_none_right_eq_some, Option.some.injEq] at hf
    obtain ⟨-, rfl⟩ := hf
    simp
  | _ => cases hf

theorem FaultRecorded.raise (s : State) {f : MachineFault} (hf : f.code ≠ .none) : FaultRecorded (s.raise f) :=
  ⟨fun _ => hf, fun _ => rfl⟩

theorem FaultRecorded.of_same {s t : State} (h : FaultRecorded s) (hsame : Part.same .faultRecord s t) : FaultRecorded t := by
  obtain ⟨hstatus, hcode, -⟩ := hsame
  rwa [FaultRecorded, hstatus, hcode]

theorem FaultRecorded.exec {i : Instr} {s t : State} (h : FaultRecorded s) (hexec : exec i s = .next t) : FaultRecorded t := by
  cases hf : faultOf i s with
  | some f =>
    cases (exec_of_fault hf).symm.trans hexec
    exact .raise s (faultOf_code_ne_none hf)
  | none =>
    obtain ⟨u, hu, hsame, -⟩ := exec_of_no_fault hf
    cases hu.symm.trans hexec
    exact h.of_same hsame

theorem FaultRecorded.cycle {s t : State} (h : FaultRecorded s) (hcycle : cycle s = .next t) : FaultRecorded t := by
  obtain ⟨-, rfl⟩ | ⟨-, -, rfl⟩ | ⟨_, _, -, -, -, -, rfl⟩ | ⟨_, _, -, -, -, -, hexec⟩ := cycle_cases s t hcycle
  · exact h.of_same ⟨rfl, rfl, rfl⟩
  · exact .raise s (by simp [outOfRange])
  · exact .raise s (by simp [unrecognized])
  · exact h.exec hexec

/-- A reset clears the record with the status; the other operations of the host touch neither. -/
theorem FaultRecorded.hostOp {s t : State} {op : HostOp} (h : FaultRecorded s) (hop : s.hostOp op = .ok t) : FaultRecorded t := by
  obtain ⟨-, rfl⟩ | ⟨_, -, -, rfl⟩ | ⟨-, rfl⟩ | ⟨-, rfl⟩ := hostOp_cases s t op hop
  · simp [FaultRecorded, State.resetMachine, State.reset]
  · exact h.of_same ⟨rfl, rfl, rfl⟩
  · exact h.of_same ⟨rfl, rfl, rfl⟩
  · exact h.of_same ⟨rfl, rfl, rfl⟩

/-- Settles O53: the host's operations and the cycle each keep status and code in agreement. -/
theorem stepKeepsFaultRecord : Obligations.StepKeepsFaultRecord := by
  intro s u h hstep
  obtain ⟨t, hphase, hend⟩ := step_cases s u hstep
  have ht : FaultRecorded t := hostPhase_induct FaultRecorded s t hphase h (fun _ _ _ hs => hs.hostOp)
    fun _ _ hs => hs.of_same ⟨rfl, rfl, rfl⟩
  obtain ⟨-, rfl⟩ | ⟨_, -, hcycle⟩ := hend
  · exact ht
  · exact ht.cycle hcycle

/-! Cycles that execute no instruction. -/

/-- A halted cycle writes its report and nothing else (R171). -/
theorem cycle_of_halted {s : State} (h : s.status = .halted) : cycle s = .next (s.setReport .halted) := by
  rw [cycle, h]

/-- Settles O11: the state after a halted cycle is known outright. -/
theorem haltedCycleChangesNothing : Obligations.HaltedCycleChangesNothing := fun s h =>
  ⟨_, cycle_of_halted h, rfl, rfl, s.setReport_frame .halted⟩

section
variable {s : State} (hrun : s.status = .running) (hpc : s.pc.toNat ≤ 4094)
include hrun hpc

/-- With a whole word at `PC`, a Running cycle goes by what the word decodes to. -/
theorem cycle_of_decode {i : Instr} (hi : decode (wordOfBytes (s.byteAt s.pc.toNat) (s.byteAt (s.pc.toNat + 1))) = .ok i) :
    cycle s = exec i s := by
  simp only [cycle, hrun, fetch_ok s hpc, hi]

theorem cycle_of_decode_error {e : DecodeError}
    (he : decode (wordOfBytes (s.byteAt s.pc.toNat) (s.byteAt (s.pc.toNat + 1))) = .error e) :
    cycle s = .next (s.raise (unrecognized (wordOfBytes (s.byteAt s.pc.toNat) (s.byteAt (s.pc.toNat + 1))))) := by
  simp only [cycle, hrun, fetch_ok s hpc, he]

end

/-- Settles O12: fetch past the last word, and a word refused by the decoder, each by the fault the cycle raises. -/
theorem fetchAndDecodeFaultsHalt : Obligations.FetchAndDecodeFaultsHalt := by
  refine fun s hrun => ⟨fun hout => ?_, fun hpc op e hop he => ?_⟩
  · exact ⟨_, cycle_of_fetch_error hrun (fetch_past_last_word s hout), rfl, rfl, rfl, rfl, rfl, s.raise_frame _⟩
  · subst hop
    exact ⟨_, cycle_of_decode_error hrun hpc he, rfl, rfl, rfl, rfl, rfl, s.raise_frame _⟩

/-- A turn that drives a cycle is that cycle from the state the host's part leaves (R190). -/
theorem step_of_drives_cycle {s t : State} (hdrives : s.nextDrive.input ≠ none) (hphase : s.hostPhase = .ok t) :
    step s = cycle t := by
  obtain ⟨c, hc⟩ := Option.ne_none_iff_exists'.mp hdrives
  simp only [step, hphase, hc]

/-- Settles O9: a step that drives a cycle is the cycle, which executes the decoded word; the empty schedule drives a plain one. -/
theorem stepRunsDecodedInstruction : Obligations.StepRunsDecodedInstruction := by
  refine ⟨fun s t i hdrives hphase hrun hpc hi => ?_, fun s hhost => ⟨?_, fun hlate => ?_⟩⟩
  · rw [step_of_drives_cycle hdrives hphase, cycle_of_decode hrun hpc hi]
  · simp [State.nextDrive, hhost]
  · rw [hostPhase_empty s hhost hlate, ← hhost]

/-- Settles O55: the word at `PC` is a JUMP to `PC`, which writes to `PC` what it holds. -/
theorem atRestIsFixedPoint : Obligations.AtRestIsFixedPoint := by
  rintro s ⟨hrun, hpc, hword⟩
  obtain ⟨hdecode, hexec⟩ := jumpSetsPc (s.pc.setWidth 12)
  have htarget : s.pc.toNat = (s.pc.setWidth 12).toNat := by
    rw [BitVec.toNat_setWidth, Nat.mod_eq_of_lt (by omega)]
  have hop : wordOfBytes (s.byteAt s.pc.toNat) (s.byteAt (s.pc.toNat + 1)) = 0x1#4 ++ s.pc.setWidth 12 := by
    apply BitVec.eq_of_toNat_eq
    rw [wordOfBytes_toNat, hword, toNat_concat, ← htarget]
    rfl
  obtain ⟨t, ht, -, -, -, hself, -⟩ := hexec s
  rw [cycle_of_decode hrun (by omega) (hop ▸ hdecode), ht, hself htarget]

/-- Settles O60: the first step from reset with nothing loaded, run to its end. -/
theorem firstCycleWithoutRomHalts : Obligations.FirstCycleWithoutRomHalts := ⟨_, rfl, rfl, rfl, rfl, rfl, rfl⟩

/-! Halted until reset (R171, R179). -/

/-- The parts a host operation other than reset can touch. -/
def hostParts : HostOp → List Part
  | .tick => [.delayTimer, .soundTimer]
  | .clearDirty => [.dirty]
  | .loadRom _ => [.memory, .lateRom]
  | .reset => []

theorem hostOp_frame {s t : State} {op : HostOp} (hreset : op ≠ .reset) (hop : s.hostOp op = .ok t) :
    t.pc = s.pc ∧ FrameBut s t [] (hostParts op) := by
  obtain ⟨rfl, -⟩ | ⟨rom, rfl, -, rfl⟩ | ⟨rfl, rfl⟩ | ⟨rfl, rfl⟩ := hostOp_cases s t op hop
  · contradiction
  · exact ⟨rfl, s.withRom_frame rom⟩
  · exact ⟨rfl, s.tick_frame⟩
  · exact ⟨rfl, s.setDirty_frame false⟩

/-- Operations with no reset among them leave `PC` and every part that none of them can touch. -/
theorem hostOps_frame {parts : List Part} {s t : State} {ops : List HostOp} (hreset : HostOp.reset ∉ ops)
    (hparts : ∀ op ∈ ops, hostParts op ⊆ parts) (hops : s.hostOps ops = .ok t) : t.pc = s.pc ∧ FrameBut s t [] parts := by
  induction ops generalizing s with
  | nil =>
    cases hops
    exact ⟨rfl, (FrameBut.refl _).mono (by simp) (by simp)⟩
  | cons op ops ih =>
    simp only [List.mem_cons, not_or, forall_eq_or_imp] at hreset hparts
    obtain ⟨hne, hreset⟩ := hreset
    obtain ⟨hpart, hparts⟩ := hparts
    cases hop : s.hostOp op with
    | error r => cases (hostOps_cons_refused hop ops).symm.trans hops
    | ok u =>
      obtain ⟨hpc, hframe⟩ := hostOp_frame (Ne.symm hne) hop
      obtain ⟨hpc', hframe'⟩ := ih hreset hparts ((hostOps_cons_ok hop ops).symm.trans hops)
      exact ⟨hpc'.trans hpc, ((hframe.mono (List.Subset.refl []) hpart).seq hframe').mono (by simp) (by simp)⟩

/-- The host's part of a turn with no reset in it: its operations, the schedule moved on, and the input presented. -/
theorem hostPhase_frame {parts : List Part} {s t : State} (hreset : HostOp.reset ∉ s.nextDrive.before)
    (hparts : ∀ op ∈ s.nextDrive.before, hostParts op ⊆ parts) (hphase : s.hostPhase = .ok t) :
    t.pc = s.pc ∧ FrameBut s t [] (.key :: .hostSide :: parts) := by
  obtain ⟨u, hgap, hend⟩ := hostPhase_cases s t hphase
  obtain ⟨hpc, hframe⟩ := hostOps_frame hreset hparts hgap
  have hu : FrameBut s u [] (.hostSide :: parts) := (s.withHostSide_frame s.host.tail s.input).seq hframe
  obtain ⟨-, rfl⟩ | ⟨c, -, -, rfl⟩ := hend
  · exact ⟨hpc, hu.mono (by simp) (by simp)⟩
  · exact ⟨hpc, (hu.seq (u.present_frame c)).mono (by simp) (by simp)⟩

/-- From a Halted state a step with no reset in its turn is the host's part of the turn, and at most a report. -/
theorem step_of_halted {parts : List Part} {s u : State} (hhalted : s.status = .halted)
    (hreset : HostOp.reset ∉ s.nextDrive.before) (hparts : ∀ op ∈ s.nextDrive.before, hostParts op ⊆ parts)
    (hrecord : Part.faultRecord ∉ parts) (hstep : step s = .next u) :
    u.status = .halted ∧ u.pc = s.pc ∧ (s.nextDrive.input ≠ none → u.report = some .halted) ∧
      FrameBut s u [] (.key :: .hostSide :: parts) := by
  obtain ⟨t, hphase, hend⟩ := step_cases s u hstep
  obtain ⟨hpc, hframe⟩ := hostPhase_frame hreset hparts hphase
  obtain ⟨hstatus, -, -⟩ := hframe.2 .faultRecord (by simpa using hrecord)
  have ht : t.status = .halted := hstatus.trans hhalted
  obtain ⟨hinput, rfl⟩ | ⟨c, hinput, hcycle⟩ := hend
  · exact ⟨ht, hpc, fun hdrives => absurd hinput hdrives, hframe⟩
  · cases (cycle_of_halted ht).symm.trans hcycle
    exact ⟨ht, hpc, fun _ => rfl, (hframe.seq (t.setReport_frame .halted)).mono (by simp) (by simp)⟩

theorem hostParts_subset (op : HostOp) : hostParts op ⊆ [.delayTimer, .soundTimer, .dirty, .memory, .lateRom] := by
  cases op <;> simp [hostParts]

theorem hostParts_subset_of_not_loadRom {op : HostOp} (h : ∀ rom, op ≠ .loadRom rom) :
    hostParts op ⊆ [.delayTimer, .soundTimer, .dirty] := by
  cases op with
  | loadRom rom => exact absurd rfl (h rom)
  | reset | tick | clearDirty => simp [hostParts]

/-- Settles O54: `step_of_halted`, with the parts the turn's operations can touch, a ROM load among them or not. -/
theorem haltedUntilReset : Obligations.HaltedUntilReset := by
  intro s u hhalted hreset hstep
  obtain ⟨hstatus, hpc, hreport, hframe⟩ :=
    step_of_halted hhalted hreset (fun op _ => hostParts_subset op) (by decide) hstep
  refine ⟨hstatus, hpc, hreport, hframe.mono (by simp) (by simp), fun hrom => ?_⟩
  have hparts : ∀ op ∈ s.nextDrive.before, hostParts op ⊆ [.delayTimer, .soundTimer, .dirty] := fun op hop =>
    hostParts_subset_of_not_loadRom fun rom heq => hrom rom (heq ▸ hop)
  obtain ⟨-, -, -, hframe'⟩ := step_of_halted hhalted hreset hparts (by decide) hstep
  exact hframe'.mono (by simp) (by simp)

end Sys2Proof.Machine
end

section
/-! SUPPORT. The statements of 41_alu.md (R121 to R132): instructions that write one register, and the two orders in which an
instruction writes a register and the flag (the spec's decision D6). -/

namespace Sys2Proof.Machine

/-- An instruction that answers `t`, with no fault listed and no wait, has gone all the way. -/
theorem completes_of_exec_eq {i : Instr} {s t : State} (hexec : exec i s = .next t) (hf : faultOf i s = none)
    (hw : waitsForKey i s = false) : Completes i s t := by
  have hends : Ends i s (.next t) := hexec ▸ exec_ends i s
  cases hends with
  | faults f hf' => cases hf.symm.trans hf'
  | waits _ hw' => cases hw.symm.trans hw'
  | completes _ _ _ ht => exact ht

section
variable {i : Instr} {s : State} {x : Nibble}

/-- What is so of the byte written is so of `V[x]` after an instruction that writes one register. -/
theorem writesRegister_such_that {P : Byte → Prop} {b : Byte} (hb : P b)
    (hexec : exec i s = (s.setReg x b).nextInsn.complete) :
    ∃ t, exec i s = .next t ∧ P (t.reg x) ∧ t.pc = s.pc + 2 ∧ t.report = some .running ∧ FrameBut s t [x] [] := by
  obtain ⟨t, ht, hreg, hrest⟩ := writesRegister_of_exec_eq hexec
  exact ⟨t, ht, hreg ▸ hb, hrest⟩

/-- The register first, then the flag (R126, R127, R129): with `x = 15` the flag stays. -/
theorem writesRegisterThenFlag_such_that {P : Byte → Prop} {b : Byte} {c : Bool} (hb : P b)
    (hexec : exec i s = ((s.setReg x b).setFlag c).nextInsn.complete) :
    ∃ t, exec i s = .next t ∧ (x ≠ 15 → P (t.reg x)) ∧ t.reg 15 = flagByte c ∧ t.pc = s.pc + 2 ∧
      t.report = some .running ∧ FrameBut s t [x, 15] [] := by
  refine ⟨_, hexec, fun hx => ?_, by simp, rfl, rfl, ?_⟩
  · have hx' : x ≠ 15#4 := hx
    simpa [hx'] using hb
  · exact (((s.setReg_frame x b).seq (State.setFlag_frame _ c)).seq (State.nextInsn_frame _)).seq (State.setReport_frame _ _)

/-- The flag first, then the register as it then is (R128, R130): with `x = 15` the flag is what is shifted. -/
theorem writesFlagThenRegister {f : Byte → Byte} {c : Bool}
    (hexec : exec i s = ((s.setFlag c).setReg x (f ((s.setFlag c).reg x))).nextInsn.complete) :
    ∃ t, exec i s = .next t ∧ (x ≠ 15 → t.reg 15 = flagByte c ∧ t.reg x = f (s.reg x)) ∧
      (x = 15 → t.reg 15 = f (flagByte c)) ∧ t.pc = s.pc + 2 ∧ t.report = some .running ∧ FrameBut s t [x, 15] [] := by
  refine ⟨_, hexec, fun hx => ?_, fun hx => ?_, rfl, rfl, ?_⟩
  · have hx' : x ≠ 15#4 := hx
    simp [hx', hx'.symm]
  · simp [hx]
  · exact ((((s.setFlag_frame c).seq (State.setReg_frame _ x _)).seq (State.nextInsn_frame _)).seq
      (State.setReport_frame _ _)).mono (by simp) (by simp)

end

/-! One register. -/

/-- Settles O26: the 8-bit sum, written to one register. -/
theorem addWrapsWithoutFlag : Obligations.AddWrapsWithoutFlag := fun x nn s =>
  writesRegister_such_that (P := fun r => r.toNat = ((s.reg x).toNat + nn.toNat) % 256) (BitVec.toNat_add _ _) rfl

/-- Settles O27: `V[y]` is kept by the frame, or, with `x = y`, by what is written. -/
theorem moveCopiesRegister : Obligations.MoveCopiesRegister := by
  intro x y s
  obtain ⟨t, ht, hx, hpc, hreport, hframe⟩ := writesRegister_of_exec_eq (i := .move x y) (s := s) rfl
  refine ⟨t, ht, hx, ?_, hpc, hreport, hframe⟩
  by_cases hxy : y = x
  · rw [hxy] at hx ⊢
    exact hx
  · exact hframe.1 y (by simpa using hxy)

/-- Settles O28: the three bitwise results, bit by bit, each written to one register. -/
theorem logicWritesNoFlag : Obligations.LogicWritesNoFlag := fun x y s =>
  ⟨writesRegister_such_that (P := fun r => ∀ k < 8, r.getLsbD k = ((s.reg x).getLsbD k || (s.reg y).getLsbD k))
      (fun _ _ => BitVec.getLsbD_or) rfl,
    writesRegister_such_that (P := fun r => ∀ k < 8, r.getLsbD k = ((s.reg x).getLsbD k && (s.reg y).getLsbD k))
      (fun _ _ => BitVec.getLsbD_and) rfl,
    writesRegister_such_that (P := fun r => ∀ k < 8, r.getLsbD k = xor ((s.reg x).getLsbD k) ((s.reg y).getLsbD k))
      (fun _ _ => BitVec.getLsbD_xor) rfl⟩

/-! A register and the flag. -/

theorem flagByte_decide (p : Prop) [Decidable p] : flagByte (decide p) = if p then 1 else 0 := by
  simp [flagByte]

/-- Settles O29: the 8-bit sum, then the carry of the true sum. -/
theorem addrSetsCarry : Obligations.AddrSetsCarry := by
  intro x y s
  obtain ⟨t, ht, hsum, hflag, hrest⟩ := writesRegisterThenFlag_such_that (i := .addr x y)
    (P := fun r => r.toNat = ((s.reg x).toNat + (s.reg y).toNat) % 256) (BitVec.toNat_add _ _) rfl
  exact ⟨t, ht, hsum, hflag.trans (flagByte_decide _), hrest⟩

/-- The 8-bit difference is the true difference modulo 256 (R127, R129). -/
theorem toNat_byte_sub (a b : Byte) : ((a - b).toNat : Int) = (a.toNat - b.toNat : Int) % 256 := by
  rw [BitVec.toNat_sub]
  omega

/-- Settles O30: the 8-bit difference, then whether there was no borrow; SUBB is SUB with the operands exchanged. -/
theorem subtractSetsNoBorrow : Obligations.SubtractSetsNoBorrow := by
  intro x y s
  constructor
  · obtain ⟨t, ht, hdiff, hflag, hrest⟩ := writesRegisterThenFlag_such_that (i := .sub x y)
      (P := fun r => (r.toNat : Int) = ((s.reg x).toNat - (s.reg y).toNat : Int) % 256) (toNat_byte_sub _ _) rfl
    exact ⟨t, ht, hdiff, hflag.trans (flagByte_decide _), hrest⟩
  · obtain ⟨t, ht, hdiff, hflag, hrest⟩ := writesRegisterThenFlag_such_that (i := .subb x y)
      (P := fun r => (r.toNat : Int) = ((s.reg y).toNat - (s.reg x).toNat : Int) % 256) (toNat_byte_sub _ _) rfl
    exact ⟨t, ht, hdiff, hflag.trans (flagByte_decide _), hrest⟩

/-- Bit 0 as a number (R128). -/
theorem flagByte_bitZero_toNat (b : Byte) : (flagByte (bitZero b)).toNat = b.toNat % 2 := by
  rw [bitZero, BitVec.getLsbD, Nat.testBit_zero, flagByte_decide]
  split <;> simp <;> omega

/-- Bit 7 as a number (R130). -/
theorem flagByte_bitSeven_toNat (b : Byte) : (flagByte (bitSeven b)).toNat = b.toNat / 128 := by
  rw [bitSeven, BitVec.getLsbD, Nat.testBit_eq_decide_div_mod_eq, flagByte_decide]
  split <;> simp <;> omega

/-- The flag shifted right by one is 0, whichever it is. -/
theorem flagByte_shiftRight (c : Bool) : flagByte c >>> 1 = 0 := by
  cases c <;> rfl

theorem toNat_byte_shiftRight (b : Byte) : (b >>> 1).toNat = b.toNat / 2 := by
  rw [BitVec.toNat_ushiftRight, Nat.shiftRight_one]

theorem toNat_byte_shiftLeft (b : Byte) : (b <<< 1).toNat = 2 * b.toNat % 256 := by
  rw [BitVec.toNat_shiftLeft, Nat.shiftLeft_eq, Nat.mul_comm]

/-- Settles O31: the bit shifted out as a number, and the shift of the register as it is once the flag is written. -/
theorem shiftsCaptureBit : Obligations.ShiftsCaptureBit := by
  intro x s
  constructor
  · obtain ⟨t, ht, hother, hflag, hrest⟩ := writesFlagThenRegister (i := .shr x) (s := s) (f := (· >>> 1)) rfl
    refine ⟨t, ht, fun hx => ?_, fun hx => (hflag hx).trans (flagByte_shiftRight _), hrest⟩
    obtain ⟨hbit, hshift⟩ := hother hx
    exact ⟨by rw [hbit, flagByte_bitZero_toNat], by rw [hshift, toNat_byte_shiftRight]⟩
  · obtain ⟨t, ht, hother, hflag, hrest⟩ := writesFlagThenRegister (i := .shl x) (s := s) (f := (· <<< 1)) rfl
    refine ⟨t, ht, fun hx => ?_, fun hx => ?_, hrest⟩
    · obtain ⟨hbit, hshift⟩ := hother hx
      exact ⟨by rw [hbit, flagByte_bitSeven_toNat], by rw [hshift, toNat_byte_shiftLeft]⟩
    · rw [hflag hx, toNat_byte_shiftLeft, flagByte_bitSeven_toNat, hx]
      omega

/-- Settles O32: the byte drawn is the host's or the free one, and masking it leaves no bit outside the mask. -/
theorem randMasksDraw : Obligations.RandMasksDraw := by
  intro x nn s
  have hexec : exec (.rand x nn) s = (s.setReg x (s.drawByte &&& nn)).countDraw.nextInsn.complete := rfl
  have ht := completes_of_exec_eq hexec rfl rfl
  have hreg : ((s.setReg x (s.drawByte &&& nn)).countDraw.nextInsn.setReport .running).reg x = s.drawByte &&& nn := by simp
  refine ⟨_, hexec, fun d hd => ?_, fun hd => ?_, fun k hk => ?_, rfl, ht.pc, ht.report, ht.frame⟩
  · rw [hreg, State.drawByte, hd, Option.getD_some]
  · rw [hreg, State.drawByte, hd, Option.getD_none]
  · rw [hreg, BitVec.getLsbD_and, hk, Bool.and_false]

end Sys2Proof.Machine
end

section
/-! SUPPORT. The statements of 42_index_memory.md about `I` (R140 to R142), of 43_display.md about CLS (R150), and of 44_key_timer.md
about KEYD and the timers (R162 to R165). -/

namespace Sys2Proof.Machine

/-- What is so of the word written is so of `I` after an instruction that writes it and advances `PC`. -/
theorem writesIndex_such_that {i : Instr} {s : State} {P : Word → Prop} {w : Word} (hw : P w)
    (hexec : exec i s = (s.setI w).nextInsn.complete) :
    ∃ t, exec i s = .next t ∧ P t.i ∧ t.pc = s.pc + 2 ∧ t.report = some .running ∧ FrameBut s t [] [.index] :=
  ⟨_, hexec, hw, rfl, rfl, ((s.setI_frame w).seq (State.nextInsn_frame _)).seq (State.setReport_frame _ _)⟩

/-- Settles O33: the zero-extended address, written to `I`. -/
theorem loadiSetsIndex : Obligations.LoadiSetsIndex := fun nnn _ =>
  writesIndex_such_that (P := fun w => w.toNat = nnn.toNat) (zextAddr_toNat nnn) rfl

/-- Settles O35: the address of the glyph, written to `I`. -/
theorem ldsprPointsAtGlyph : Obligations.LdsprPointsAtGlyph := fun x s =>
  writesIndex_such_that (P := fun w => w.toNat = fontBase + 5 * ((s.reg x).toNat % 16)) (glyphAddress_toNat _) rfl

theorem exec_addi_of_wrap {x : Nibble} {s : State} (h : 0xFFF < s.i.toNat + (s.reg x).toNat) :
    exec (.addi x) s = ((s.setI (s.addiIndex x)).setFlag true).nextInsn.complete := by
  have hwraps : indexWraps s.i (s.reg x) = true := decide_eq_true h
  rw [exec, execAddi, if_pos hwraps, State.addiIndex]

theorem exec_addi_of_no_wrap {x : Nibble} {s : State} (h : ¬ 0xFFF < s.i.toNat + (s.reg x).toNat) :
    exec (.addi x) s = (s.setI (s.addiIndex x)).nextInsn.complete := by
  have hwraps : ¬ indexWraps s.i (s.reg x) = true := mt of_decide_eq_true h
  rw [exec, execAddi, if_neg hwraps, State.addiIndex]

/-- Settles O34: on wraparound the flag is written after `I`; otherwise ADDI writes `I` alone. -/
theorem addiWrapsIndex : Obligations.AddiWrapsIndex := by
  intro x s
  by_cases hwrap : 0xFFF < s.i.toNat + (s.reg x).toNat
  · have hexec := exec_addi_of_wrap hwrap
    have ht := completes_of_exec_eq hexec rfl rfl
    exact ⟨_, hexec, s.addiIndex_toNat x, fun _ => ⟨by simp [flagByte], ht.frame⟩,
      fun hle => absurd hwrap (Nat.not_lt.mpr hle), ht.pc, ht.report⟩
  · obtain ⟨t, ht, hi, hpc, hreport, hframe⟩ := writesIndex_such_that
      (P := fun w => w.toNat = (s.i.toNat + (s.reg x).toNat) % 4096) (s.addiIndex_toNat x) (exec_addi_of_no_wrap hwrap)
    exact ⟨t, ht, hi, fun hlt => absurd hlt hwrap, fun _ => hframe, hpc, hreport⟩

/-- Settles O40: an empty list of cells is a clear screen. -/
theorem clsClearsScreen : Obligations.ClsClearsScreen := by
  intro s
  have hexec : exec .cls s = ((s.setFb []).setDirty true).nextInsn.complete := rfl
  have ht := completes_of_exec_eq hexec rfl rfl
  exact ⟨_, hexec, fun _ _ _ _ => rfl, rfl, ht.pc, ht.report, ht.frame⟩

/-- Settles O43: with an event KEYD writes one register; without one it reports and that is all. -/
theorem keydTakesEventOrWaits : Obligations.KeydTakesEventOrWaits := by
  refine fun x s => ⟨fun k hk => ?_, fun hnone => ?_⟩
  · exact writesRegister_of_exec_eq (by rw [exec, execKeyd, hk])
  · exact ⟨s.setReport .needsInput, by rw [exec, execKeyd, hnone], rfl, rfl, s.setReport_frame .needsInput⟩

/-- Settles O44: MOVED writes one register, LOADD and LOADS one timer. -/
theorem timerInstructions : Obligations.TimerInstructions := by
  intro x s
  have hloadd := completes_of_exec_eq (exec_loadd x s) rfl rfl
  have hloads := completes_of_exec_eq (exec_loads x s) rfl rfl
  exact ⟨writesRegister_of_exec_eq (exec_moved x s), ⟨_, exec_loadd x s, rfl, hloadd.pc, hloadd.report, hloadd.frame⟩,
    ⟨_, exec_loads x s, rfl, hloads.pc, hloads.report, hloads.frame⟩⟩

/-- Settles O56: the reset values; of memory, that no entry is listed, so each byte is the font's or 0. -/
theorem resetValues : Obligations.ResetValues := by
  have hreg : ∀ r, State.reset.reg r = 0 := fun r => by simp [State.reg, State.reset]
  have hslot : ∀ j, State.reset.slot j = 0 := fun j => by simp [State.slot, State.reset]
  have hlength : fontBytes.length = 80 := rfl
  have hbyte : ∀ a, State.reset.byteAt a = fontBytes.getD a 0 := fun _ => rfl
  refine ⟨hreg, rfl, rfl, hslot, rfl, rfl, rfl, rfl, fun _ _ => rfl, rfl, rfl, rfl, rfl, hlength, fun k hk => ?_, fun a ha => ?_⟩
  · rw [hbyte, fontBase, Nat.zero_add, List.getD_eq_getElem _ _ hk]
  · rw [fontBase] at ha
    rw [hbyte, List.getD_eq_default _ _ (by omega)]

end Sys2Proof.Machine
end

section
/-! SUPPORT. The statements of 20_memory.md about stored blocks (R53, D31) and the canonical form, and of 42_index_memory.md about BCD,
PUSH and POP (R143 to R146). -/

namespace Sys2Proof.Machine

/-! Blocks of bytes. -/

/-- Byte k of a stored block is at `base + k`. -/
theorem State.setMem_writeBytes_byteAt (s : State) (base : Nat) (bytes : List Byte) {k : Nat} (hk : k < bytes.length) :
    (s.setMem (writeBytes s.mem base bytes)).byteAt (base + k) = bytes.getD k 0 := by
  rw [State.setMem_byteAt, readByte_writeBytes, if_pos (by omega), Nat.add_sub_cancel_left]

/-- Settles O15: the state after a store that fits is known outright. -/
theorem blockStoreRule : Obligations.BlockStoreRule := fun s base bytes hfits =>
  ⟨_, storeBlock_ok s base bytes hfits,
    fun k hk => by rw [s.setMem_writeBytes_byteAt base bytes hk, List.getD_eq_getElem _ _ hk],
    s.setMem_writeBytes_outside base bytes, rfl, rfl, s.setMem_frame _,
    fun hwf => memory_wf_writeBytes bytes s.mem base hwf hfits⟩

/-- Settles O17: fetch reads the two bytes of the block where they were stored. -/
theorem storeSeenByNextFetch : Obligations.StoreSeenByNextFetch := by
  intro s t a hi lo ha hstore hpc
  obtain ⟨-, rfl⟩ := storeBlock_cases s t a _ hstore
  have hhi := s.setMem_writeBytes_byteAt a [hi, lo] (k := 0) (by simp)
  have hlo := s.setMem_writeBytes_byteAt a [hi, lo] (k := 1) (by simp)
  rw [Nat.add_zero] at hhi
  rw [fetch_ok _ (by omega), hpc, hhi, hlo]
  rfl

/-! The canonical form (log entry 8). -/

/-- In an array in canonical form the entries are the bytes that differ from what is unlisted. -/
theorem mem_cells_iff {d : Nat → Byte} {m : List Host.Cell} (hsorted : m.Pairwise (fun p q => p.1 < q.1))
    (hlisted : ∀ c ∈ m, c.2 ≠ d c.1) (c : Host.Cell) : c ∈ m ↔ cellsRead d m c.1 = c.2 ∧ c.2 ≠ d c.1 := by
  induction m with
  | nil => simp [cellsRead, eq_comm]
  | cons p rest ih =>
    obtain ⟨a, b⟩ := c
    obtain ⟨k, e⟩ := p
    obtain ⟨hbelow, hrest⟩ := List.pairwise_cons.mp hsorted
    rw [List.forall_mem_cons] at hlisted
    rw [List.mem_cons, ih hrest hlisted.2, cellsRead, Prod.mk.injEq]
    by_cases hk : k = a
    · subst hk
      have habsent : ¬ (cellsRead d rest k = b ∧ b ≠ d k) := fun hmem =>
        Nat.lt_irrefl k (hbelow (k, b) ((ih hrest hlisted.2).mpr hmem))
      rw [if_pos rfl]
      constructor
      · rintro (⟨-, rfl⟩ | hmem)
        · exact ⟨rfl, hlisted.1⟩
        · exact absurd hmem habsent
      · rintro ⟨rfl, -⟩
        exact .inl ⟨rfl, rfl⟩
    · rw [if_neg hk, or_iff_right (fun heq => hk heq.1.symm)]

/-- Two arrays in canonical form that read the same have the same entries, and there is one order to list them in. -/
theorem cells_eq_of_read_eq {d : Nat → Byte} {size : Nat} {m m' : List Host.Cell} (hm : cellsWf d size m) (hm' : cellsWf d size m')
    (hread : ∀ a, cellsRead d m a = cellsRead d m' a) : m = m' := by
  obtain ⟨hsorted, hlisted⟩ := hm
  obtain ⟨hsorted', hlisted'⟩ := hm'
  have hirrefl : Std.Irrefl fun p q : Host.Cell => p.1 < q.1 := ⟨fun p => Nat.lt_irrefl p.1⟩
  refine List.Pairwise.eq_of_mem_iff hsorted hsorted' fun c => ?_
  rw [mem_cells_iff hsorted (fun c hc => (hlisted c hc).2), mem_cells_iff hsorted' (fun c hc => (hlisted' c hc).2), hread]

/-- Settles O16: the entries of a canonical memory are determined by what it reads as. -/
theorem equalMemoriesAreEqualData : Obligations.EqualMemoriesAreEqualData := fun _ _ => cells_eq_of_read_eq

/-! BCD, PUSH and POP. -/

/-- An instruction that stores a block from `I` on and advances `PC`: the bytes it leaves at `I`, `I + 1` and so on. -/
theorem storesBlock_byteAt (s : State) (bytes : List Byte) {k : Nat} (hk : k < bytes.length) :
    ((s.setMem (writeBytes s.mem s.base bytes)).nextInsn.setReport .running).byteAt (s.base + k) = bytes.getD k 0 :=
  s.setMem_writeBytes_byteAt s.base bytes hk

section
variable {x : Nibble} {s : State}

theorem exec_bcd_of_room (h : faultOf (.bcd x) s = none) :
    exec (.bcd x) s = .next ((s.setMem (writeBytes s.mem s.base (bcdDigits (s.reg x)))).nextInsn.setReport .running) := by
  rw [faultOf_bcd] at h
  rw [exec, execBcd, storeBlock_room h]
  rfl

theorem exec_push_of_room (h : faultOf (.push x) s = none) :
    exec (.push x) s =
      .next ((s.setMem (writeBytes s.mem s.base (s.regsFrom 0 (x.toNat + 1)))).nextInsn.setReport .running) := by
  rw [faultOf_push] at h
  rw [exec, execPush, storeBlock_room (by rwa [regsFrom_length])]
  rfl

theorem exec_pop_of_room (h : faultOf (.pop x) s = none) :
    exec (.pop x) s = .next ((s.setRegsFrom 0 (readBytes s.mem s.base (x.toNat + 1))).nextInsn.setReport .running) := by
  rw [faultOf_pop] at h
  rw [exec, execPop, loadBlock_room h]
  rfl

/-- Register `r` after POP: loaded if it is one of the block, else kept (R146). -/
theorem setRegsFrom_readBytes_reg (r : Nibble) :
    (s.setRegsFrom 0 (readBytes s.mem s.base (x.toNat + 1))).reg r =
      if r.toNat ≤ x.toNat then s.byteAt (s.base + r.toNat) else s.reg r := by
  have hx := x.isLt
  rw [State.setRegsFrom_reg _ _ _ _ (by rw [readBytes_length]; omega), readBytes_length]
  by_cases hr : r.toNat ≤ x.toNat
  · rw [if_pos hr, if_pos (by omega), Nat.sub_zero, readBytes_getD _ _ _ _ (by omega)]
    rfl
  · rw [if_neg hr, if_neg (by omega)]

end

/-- Each of the three decimal digits fits a byte (R143). -/
theorem bcdDigits_toNat (b : Byte) : ((bcdDigits b).getD 0 0).toNat = b.toNat / 100 ∧
    ((bcdDigits b).getD 1 0).toNat = b.toNat / 10 % 10 ∧ ((bcdDigits b).getD 2 0).toNat = b.toNat % 10 := by
  refine ⟨Nat.mod_eq_of_lt ?_, Nat.mod_eq_of_lt ?_, Nat.mod_eq_of_lt ?_⟩ <;> omega

/-- Settles O36: the three digits as a stored block, the rest by the row of BCD. -/
theorem bcdStoresDigits : Obligations.BcdStoresDigits := by
  intro x s hroom
  have hfault : faultOf (.bcd x) s = none := if_neg (Nat.not_lt.mpr hroom)
  have hexec := exec_bcd_of_room hfault
  have ht := completes_of_exec_eq hexec hfault rfl
  have hbyte {k : Nat} (hk : k < 3) := storesBlock_byteAt s (bcdDigits (s.reg x)) (k := k) hk
  obtain ⟨hhundreds, htens, hones⟩ := bcdDigits_toNat (s.reg x)
  exact ⟨_, hexec, (congrArg BitVec.toNat (hbyte (k := 0) (by decide))).trans hhundreds,
    (congrArg BitVec.toNat (hbyte (k := 1) (by decide))).trans htens,
    (congrArg BitVec.toNat (hbyte (k := 2) (by decide))).trans hones, ht.narrow, ht.pc, ht.report, ht.frame⟩

/-- Settles O37: the registers as a stored block, the rest by the row of PUSH. -/
theorem pushStoresRegisters : Obligations.PushStoresRegisters := by
  intro x s hroom
  have hfault : faultOf (.push x) s = none := if_neg (Nat.not_lt.mpr hroom)
  have hexec := exec_push_of_room hfault
  have ht := completes_of_exec_eq hexec hfault rfl
  refine ⟨_, hexec, fun r hr => ?_, ht.narrow, ht.pc, ht.report, ht.frame⟩
  rw [storesBlock_byteAt s _ (by rw [regsFrom_length]; omega), regsFrom_getD _ _ _ _ (by omega), Nat.zero_add, BitVec.ofNat_toNat,
    BitVec.setWidth_eq]

/-- Settles O38: the registers by `setRegsFrom_readBytes_reg`, the rest by the row of POP, which names no part. -/
theorem popLoadsRegisters : Obligations.PopLoadsRegisters := by
  intro x s hroom
  have hfault : faultOf (.pop x) s = none := if_neg (Nat.not_lt.mpr hroom)
  have hexec := exec_pop_of_room hfault
  have ht := completes_of_exec_eq hexec hfault rfl
  refine ⟨_, hexec, fun r hr => ?_, fun r hr => ?_, ht.pc, ht.report, fun p => ht.frame.2 p (by simp [partsWritten])⟩
  · exact (setRegsFrom_readBytes_reg r).trans (if_pos hr)
  · exact (setRegsFrom_readBytes_reg r).trans (if_neg (Nat.not_le.mpr hr))

end Sys2Proof.Machine
end

section
/-! SUPPORT. The statements of 40_control_transfer.md about JUMPI, CALL and RET (R100, R102, R108), and the stack discipline of a run
of calls and a run of returns. -/

namespace Sys2Proof.Machine

/-- Settles O22: the sum of two numbers below 2^13 is not reduced by the 16 bits of `PC`. -/
theorem jumpiAddsRegisterZero : Obligations.JumpiAddsRegisterZero := by
  intro nnn s
  have hpc := jumpi_target_toNat nnn (s.reg 0)
  refine ⟨_, rfl, hpc, rfl, s.setPc_setReport_frame _ _, fun hout => ?_⟩
  obtain ⟨-, -, hbeyond, -⟩ := fetchIsBigEndian ((s.setPc (zextAddr nnn + zextByte (s.reg 0))).setReport .running)
  exact hbeyond (hout.trans_eq hpc.symm)

/-! One CALL, one RET. -/

/-- Depth 15 has no room for a call (the spec's decision D5). -/
theorem faultOf_call_of_full (nnn : Addr12) {s : State} (h : s.sp = 15) :
    faultOf (.call nnn) s = some ⟨.stackOverflow, 15⟩ :=
  if_pos (congrArg BitVec.toNat h)

theorem faultOf_call_of_room (nnn : Addr12) {s : State} (h : s.sp ≠ 15) : faultOf (.call nnn) s = none :=
  if_neg fun heq => h (BitVec.eq_of_toNat_eq heq)

theorem faultOf_ret_of_empty {s : State} (h : s.sp = 0) : faultOf .ret s = some ⟨.stackUnderflow, 0⟩ :=
  if_pos (congrArg BitVec.toNat h)

theorem faultOf_ret_of_nonempty {s : State} (h : s.sp ≠ 0) : faultOf .ret s = none :=
  if_neg fun heq => h (BitVec.eq_of_toNat_eq heq)

theorem sp_add_one_toNat {j : BitVec 4} (h : j ≠ 15) : (j + 1).toNat = j.toNat + 1 := by bv_omega

theorem sp_sub_one_toNat {j : BitVec 4} (h : j ≠ 0) : (j - 1).toNat + 1 = j.toNat := by bv_omega

/-- Settles O19: with room by the state CALL leaves and its row; without by the fault listed for it. -/
theorem callPushesOwnAddress : Obligations.CallPushesOwnAddress := by
  refine fun nnn s => ⟨fun hroom => ?_, fun hfull => faultsWith_of_faultOf (faultOf_call_of_full nnn hfull)⟩
  have hexec := exec_call_of_room nnn hroom
  have ht := completes_of_exec_eq hexec (faultOf_call_of_room nnn hroom) rfl
  exact ⟨_, hexec, sp_add_one_toNat hroom, call_slot_sp nnn s _ hroom hexec, ht.narrow, zextAddr_toNat nnn, ht.report, ht.frame⟩

/-- Settles O20: with a call to return from by the state RET leaves and its row; without by the fault listed for it. -/
theorem retPopsPushedAddress : Obligations.RetPopsPushedAddress := by
  refine fun s => ⟨fun hsp => ?_, fun hempty => faultsWith_of_faultOf (faultOf_ret_of_empty hempty)⟩
  have hexec := exec_ret_of_nonempty hsp
  have ht := completes_of_exec_eq hexec (faultOf_ret_of_nonempty hsp) rfl
  exact ⟨_, hexec, ht.pc, sp_sub_one_toNat hsp, ht.narrow, ht.report, ht.frame⟩

/-! Runs of calls and returns (95_test_vectors.md S11). -/

theorem execAll_cons {i : Instr} {s t : State} (h : exec i s = .next t) (rest : List Instr) :
    execAll (i :: rest) s = execAll rest t := by
  rw [execAll, h]

theorem execAll_append {l : List Instr} {s t : State} (h : execAll l s = .next t) (rest : List Instr) :
    execAll (l ++ rest) s = execAll rest t := by
  induction l generalizing s with
  | nil =>
    cases h
    rfl
  | cons i l ih =>
    obtain ⟨u, hu⟩ := exec_answers i s
    rw [execAll_cons hu] at h
    rw [List.cons_append, execAll_cons hu, ih h]

/-- From `s` to `t` the stack alone has changed, and only above the depth of `s`. -/
structure KeepsCallers (s t : State) : Prop where
  frame : FrameBut s t [] [.stack]
  slots : ∀ j, j.toNat ≤ s.sp.toNat → t.slot j = s.slot j

theorem KeepsCallers.refl (s : State) : KeepsCallers s s := ⟨(FrameBut.refl s).mono (by simp) (by simp), fun _ _ => rfl⟩

theorem KeepsCallers.trans {s t u : State} (h : KeepsCallers s t) (h' : KeepsCallers t u) (hsp : s.sp.toNat ≤ t.sp.toNat) :
    KeepsCallers s u :=
  ⟨(h.frame.seq h'.frame).mono (by simp) (by simp), fun j hj => (h'.slots j (hj.trans hsp)).trans (h.slots j hj)⟩

/-- A run of calls that fits above `SP` pushes; as many returns pop what was pushed. The slots up to the depth at the start, which hold
the addresses of earlier calls, are read and written by neither. -/
theorem execAll_calls_returns (targets : List Addr12) {s : State} (hfits : s.sp.toNat + targets.length ≤ 15) :
    ∃ t u, execAll (targets.map .call) s = .next t ∧ t.sp.toNat = s.sp.toNat + targets.length ∧ KeepsCallers s t ∧
      execAll (List.replicate targets.length .ret) t = .next u ∧ u.pc = s.pc ∧ u.sp = s.sp ∧ KeepsCallers s u := by
  induction targets generalizing s with
  | nil => exact ⟨s, s, rfl, rfl, .refl s, rfl, rfl, rfl, .refl s⟩
  | cons nnn targets ih =>
    rw [List.length_cons] at hfits
    have hroom : s.sp ≠ 15 := by bv_omega
    obtain ⟨called, hcall, hsp, hpushed, hkept, -, -, hframe⟩ := (callPushesOwnAddress nnn s).left hroom
    have hcalled : KeepsCallers s called := ⟨hframe, fun j hj => hkept j fun heq => by rw [heq] at hj; omega⟩
    obtain ⟨t, u, hcalls, htsp, ht, hrets, -, husp, hu⟩ := ih (s := called) (by omega)
    have hne : u.sp ≠ 0 := by bv_omega
    obtain ⟨returned, hret, hpc, hrsp, hrkept, -, hrframe⟩ := (retPopsPushedAddress u).left hne
    have hslot : u.slot u.sp = s.pc := by rw [husp, hu.slots _ (Nat.le_refl _), hpushed]
    have hsu := hcalled.trans hu (by omega)
    refine ⟨t, returned, (execAll_cons hcall _).trans hcalls, by rw [htsp, hsp, List.length_cons]; omega, hcalled.trans ht (by omega),
      ?_, hpc.trans hslot, by rw [husp] at hrsp; bv_omega, ?_⟩
    · rw [List.length_cons, List.replicate_succ', execAll_append hrets, execAll_cons hret, execAll]
    · exact ⟨(hsu.frame.seq hrframe).mono (by simp) (by simp), fun j hj => (hrkept j).trans (hsu.slots j hj)⟩

/-- One call more than fits overflows, at depth 15. -/
theorem execAll_calls_overflow (targets : List Addr12) {s : State} (hover : s.sp.toNat + targets.length = 16) :
    ∃ t, execAll (targets.map .call) s = .next t ∧ t.status = .halted ∧ t.faultCode = .stackOverflow ∧ t.faultInfo = 15 ∧
      t.sp.toNat = 15 ∧ t.report = some .halted := by
  induction targets generalizing s with
  | nil =>
    have hlt := s.sp.isLt
    simp only [List.length_nil] at hover
    omega
  | cons nnn targets ih =>
    rw [List.length_cons] at hover
    by_cases hfull : s.sp = 15
    · have hlast : targets = [] := List.eq_nil_of_length_eq_zero (by bv_omega)
      subst hlast
      have hexec := exec_of_fault (faultOf_call_of_full nnn hfull)
      exact ⟨_, execAll_cons hexec [], rfl, rfl, rfl, congrArg BitVec.toNat hfull, rfl⟩
    · obtain ⟨called, hcall, hsp, -⟩ := (callPushesOwnAddress nnn s).left hfull
      obtain ⟨t, hcalls, hrest⟩ := ih (s := called) (by omega)
      exact ⟨t, (execAll_cons hcall _).trans hcalls, hrest⟩

/-- Settles O24: by induction on the targets, each call with the return that matches it. -/
theorem callsThenReturnsRestore : Obligations.CallsThenReturnsRestore := by
  refine fun targets s => ⟨fun hfits => ?_, execAll_calls_overflow targets⟩
  obtain ⟨t, u, hcalls, hsp, ht, hrets, hpc, husp, hu⟩ := execAll_calls_returns targets hfits
  exact ⟨t, u, hcalls, hsp, ht.frame, hrets, hpc, husp, hu.frame⟩

end Sys2Proof.Machine
end

section
/-! SUPPORT. The statements of 43_display.md about DRAW (R151, R152): each loop flips the cells it covers, once, and the whole sprite's
loop covers the cells of `spriteCovers`. -/

namespace Sys2Proof.Machine

/-- A cell of the screen (R30). -/
def OnScreen (c : Nat × Nat) : Prop := c.1 < 64 ∧ c.2 < 32

/-- From `p` to `q` the cells of the screen in `cover` are flipped and the others are kept; a hit is a flipped cell that held 1. -/
structure Flips (cover : Set (Nat × Nat)) (p q : Blit) : Prop where
  flipped : ∀ c, OnScreen c → c ∈ cover → pixel q.fb c.1 c.2 = pixel p.fb c.1 c.2 ^^^ 1
  kept : ∀ c, OnScreen c → c ∉ cover → pixel q.fb c.1 c.2 = pixel p.fb c.1 c.2
  hit : q.hit = true ↔ p.hit = true ∨ ∃ c, OnScreen c ∧ c ∈ cover ∧ pixel p.fb c.1 c.2 = 1

theorem Flips.refl (p : Blit) : Flips ∅ p p := ⟨fun _ _ h => h.elim, fun _ _ _ => rfl, by simp⟩

/-- One after the other, on cells of which none is flipped twice. -/
theorem Flips.trans {cover cover' : Set (Nat × Nat)} {p q r : Blit} (h : Flips cover p q) (h' : Flips cover' q r)
    (hdisjoint : ∀ c ∈ cover, c ∉ cover') : Flips (cover ∪ cover') p r where
  flipped c hc hmem := by
    rcases hmem with hmem | hmem
    · rw [h'.kept c hc (hdisjoint c hmem), h.flipped c hc hmem]
    · rw [h'.flipped c hc hmem, h.kept c hc fun hcover => hdisjoint c hcover hmem]
  kept c hc hmem := by
    rw [Set.mem_union, not_or] at hmem
    rw [h'.kept c hc hmem.2, h.kept c hc hmem.1]
  hit := by
    have hsecond : ∀ c, OnScreen c → c ∈ cover' → pixel q.fb c.1 c.2 = pixel p.fb c.1 c.2 := fun c hc hmem =>
      h.kept c hc fun hcover => hdisjoint c hcover hmem
    rw [h'.hit, h.hit, or_assoc]
    refine or_congr_right ⟨?_, ?_⟩
    · rintro (⟨c, hc, hmem, hone⟩ | ⟨c, hc, hmem, hone⟩)
      · exact ⟨c, hc, .inl hmem, hone⟩
      · exact ⟨c, hc, .inr hmem, hsecond c hc hmem ▸ hone⟩
    · rintro ⟨c, hc, hmem | hmem, hone⟩
      · exact .inl ⟨c, hc, hmem, hone⟩
      · exact .inr ⟨c, hc, hmem, (hsecond c hc hmem).trans hone⟩

/-! The loops. -/

/-- A 1 bit flips its cell, and a cell off the screen is dropped (R152 c, e). -/
theorem drawPixel_flips (col row : Nat) (bit : Bool) (p : Blit) :
    Flips {c | bit = true ∧ c = (col, row)} p (drawPixel col row bit p) := by
  by_cases hdrawn : bit = true ∧ col < Config.fbWidth ∧ row < Config.fbHeight
  · rw [drawPixel, if_pos hdrawn]
    obtain ⟨hbit, hcol, hrow⟩ := hdrawn
    refine ⟨?_, fun c hc hmem => ?_, ?_⟩
    · rintro c - ⟨-, rfl⟩
      rw [pixel_setPixel, if_pos rfl]
    · rw [pixel_setPixel, if_neg]
      rw [cellIndex_inj _ _ _ _ hc.1 hcol]
      exact fun heq => hmem ⟨hbit, Prod.ext heq.1 heq.2⟩
    · have hscreen : OnScreen (col, row) := ⟨hcol, hrow⟩
      simp [hbit, hscreen]
  · rw [drawPixel, if_neg hdrawn]
    have hnone : ∀ c, OnScreen c → c ∉ {c : Nat × Nat | bit = true ∧ c = (col, row)} := by
      rintro c ⟨hcol, hrow⟩ ⟨hbit, rfl⟩
      exact hdrawn ⟨hbit, hcol, hrow⟩
    refine ⟨fun c hc hmem => absurd hmem (hnone c hc), fun _ _ _ => rfl, ?_⟩
    refine ⟨.inl, fun hhit => hhit.resolve_right ?_⟩
    rintro ⟨c, hc, hmem, -⟩
    exact hnone c hc hmem

/-- The cells of the last `left` pixels of one sprite byte, bit 7 leftmost (R152 b). -/
def rowCover (px row : Nat) (b : Byte) (left : Nat) : Set (Nat × Nat) :=
  {c | c.2 = row ∧ px + (8 - left) ≤ c.1 ∧ c.1 < px + 8 ∧ b.getLsbD (7 - (c.1 - px)) = true}

theorem drawRow_flips (px row : Nat) (b : Byte) (left : Nat) (hleft : left ≤ 8) (p : Blit) :
    Flips (rowCover px row b left) p (drawRow px row b left p) := by
  induction left generalizing p with
  | zero =>
    have hempty : rowCover px row b 0 = ∅ := by
      ext c
      simp only [rowCover, Set.mem_ofPred_eq, Set.mem_empty_iff_false, iff_false]
      omega
    rw [hempty]
    exact .refl p
  | succ left ih =>
    have hcover : rowCover px row b (left + 1) =
        {c | b.getLsbD left = true ∧ c = (px + (7 - left), row)} ∪ rowCover px row b left := by
      ext ⟨col, r⟩
      simp only [rowCover, Set.mem_ofPred_eq, Set.mem_union, Prod.mk.injEq]
      by_cases hcol : col = px + (7 - left)
      · have hbit : 7 - (col - px) = left := by omega
        rw [hbit]
        grind
      · grind
    rw [hcover, drawRow]
    refine (drawPixel_flips _ row _ p).trans (ih (by omega) _) ?_
    rintro c ⟨-, rfl⟩ ⟨-, hle, -⟩
    omega

/-- The cells of the sprite's rows downward from row `py`. -/
def rowsCover (px py : Nat) (rows : List Byte) : Set (Nat × Nat) :=
  {c | px ≤ c.1 ∧ c.1 < px + 8 ∧ py ≤ c.2 ∧ c.2 < py + rows.length ∧
    (rows.getD (c.2 - py) 0).getLsbD (7 - (c.1 - px)) = true}

theorem drawRows_flips (px : Nat) (rows : List Byte) (py : Nat) (p : Blit) :
    Flips (rowsCover px py rows) p (drawRows px py rows p) := by
  induction rows generalizing py p with
  | nil =>
    have hempty : rowsCover px py [] = ∅ := by
      ext c
      simp only [rowsCover, Set.mem_ofPred_eq, Set.mem_empty_iff_false, iff_false, List.length_nil]
      omega
    rw [hempty]
    exact .refl p
  | cons b bs ih =>
    have hcover : rowsCover px py (b :: bs) = rowCover px py b 8 ∪ rowsCover px (py + 1) bs := by
      ext ⟨col, r⟩
      simp only [rowsCover, rowCover, Set.mem_ofPred_eq, Set.mem_union, List.length_cons]
      by_cases hr : r = py
      · rw [hr, Nat.sub_self, List.getD_cons_zero]
        grind
      · by_cases hbelow : py + 1 ≤ r
        · have hrow : r - py = (r - (py + 1)) + 1 := by omega
          rw [hrow, List.getD_cons_succ]
          grind
        · grind
    rw [hcover, drawRows]
    refine (drawRow_flips px py b 8 (Nat.le_refl 8) p).trans (ih (py + 1) _) ?_
    rintro c ⟨hrow, -⟩ ⟨-, -, hle, -⟩
    omega

/-! DRAW. -/

/-- The rows DRAW reads at `I` cover the cells of the closed form. -/
theorem mem_rowsCover_readBytes (s : State) (px py n col row : Nat) :
    (col, row) ∈ rowsCover px py (readBytes s.mem s.base n) ↔ spriteCovers s px py n col row = true := by
  simp only [rowsCover, Set.mem_ofPred_eq, readBytes_length, spriteCovers, Bool.and_eq_true, decide_eq_true_eq]
  by_cases hrow : row - py < n
  · rw [readBytes_getD _ _ _ _ hrow]
    simp only [and_assoc]
    rfl
  · omega

section
variable {x y n : Nibble} {s : State}

/-- The frame buffer and the hit of a DRAW that passes its range check. -/
def drawn (x y n : Nibble) (s : State) : Blit :=
  drawRows (s.reg x).toNat (s.reg y).toNat (readBytes s.mem s.base n.toNat) ⟨s.fb, false⟩

theorem exec_draw_of_room (h : faultOf (.draw x y n) s = none) : exec (.draw x y n) s =
    .next ((((s.setFb (drawn x y n s).fb).setFlag (drawn x y n s).hit).setDirty true).nextInsn.setReport .running) := by
  rw [faultOf_draw] at h
  rw [exec, execDraw, loadBlock_room h]
  rfl

theorem drawn_pixel {col row : Nat} (hcol : col < 64) (hrow : row < 32) : pixel (drawn x y n s).fb col row =
    if spriteCovers s (s.reg x).toNat (s.reg y).toNat n.toNat col row = true then s.pixelAt col row ^^^ 1
    else s.pixelAt col row := by
  have hflips := drawRows_flips (s.reg x).toNat (readBytes s.mem s.base n.toNat) (s.reg y).toNat ⟨s.fb, false⟩
  split
  next hcovers => exact hflips.flipped (col, row) ⟨hcol, hrow⟩ ((mem_rowsCover_readBytes ..).mpr hcovers)
  next hcovers => exact hflips.kept (col, row) ⟨hcol, hrow⟩ (mt (mem_rowsCover_readBytes ..).mp hcovers)

theorem drawn_hit_iff : (drawn x y n s).hit = true ↔
    ∃ col < 64, ∃ row < 32, spriteCovers s (s.reg x).toNat (s.reg y).toNat n.toNat col row = true ∧ s.pixelAt col row = 1 := by
  have hflips := drawRows_flips (s.reg x).toNat (readBytes s.mem s.base n.toNat) (s.reg y).toNat ⟨s.fb, false⟩
  refine hflips.hit.trans ⟨?_, ?_⟩
  · rintro (hfalse | ⟨⟨col, row⟩, ⟨hcol, hrow⟩, hmem, hone⟩)
    · cases hfalse
    · exact ⟨col, hcol, row, hrow, (mem_rowsCover_readBytes ..).mp hmem, hone⟩
  · rintro ⟨col, hcol, row, hrow, hcovers, hone⟩
    exact .inr ⟨(col, row), ⟨hcol, hrow⟩, (mem_rowsCover_readBytes ..).mpr hcovers, hone⟩

end

/-- Settles O41: the loop by the cells it covers, the rest by the row of DRAW. -/
theorem drawFlipsCoveredCells : Obligations.DrawFlipsCoveredCells := by
  intro x y n s hroom
  have hfault : faultOf (.draw x y n) s = none := if_neg (by omega)
  have hexec := exec_draw_of_room hfault
  have ht := completes_of_exec_eq hexec hfault rfl
  have hflag : ((((s.setFb (drawn x y n s).fb).setFlag (drawn x y n s).hit).setDirty true).nextInsn.setReport .running).reg 15 =
      flagByte (drawn x y n s).hit := by simp
  refine ⟨_, hexec, fun col hcol row hrow => drawn_pixel hcol hrow, fun hhit => ?_, fun hmiss => ?_, rfl, ht.pc, ht.report, ht.frame⟩
  · rw [hflag, drawn_hit_iff.mpr hhit]
    rfl
  · rw [hflag, Bool.eq_false_of_not_eq_true (mt drawn_hit_iff.mp hmiss)]
    rfl

/-- The cells a sprite covers depend on `I` and memory alone. -/
theorem spriteCovers_congr {s t : State} (hi : t.i = s.i) (hmem : ∀ a, t.byteAt a = s.byteAt a) (px py n col row : Nat) :
    spriteCovers t px py n col row = spriteCovers s px py n col row := by
  simp only [spriteCovers, hi, hmem]

/-- Settles O42: the first DRAW changes neither the sprite nor its place, so the second flips the same cells back, and finds a 1
where the first flipped a 0. -/
theorem drawTwiceRestores : Obligations.DrawTwiceRestores := by
  intro x y n s hx hy hroom
  obtain ⟨t, ht, htcells, -, -, -, -, -, htregs, htparts⟩ := drawFlipsCoveredCells x y n s hroom
  have hi : t.i = s.i := htparts .index (by simp)
  have hcovers : spriteCovers t (t.reg x).toNat (t.reg y).toNat n.toNat =
      spriteCovers s (s.reg x).toNat (s.reg y).toNat n.toNat := by
    funext col row
    rw [htregs x (by simpa using hx), htregs y (by simpa using hy)]
    exact spriteCovers_congr hi (htparts .memory (by simp)) _ _ _ _ _
  obtain ⟨u, hu, hucells, huhit, -⟩ := drawFlipsCoveredCells x y n t (hi ▸ hroom)
  rw [hcovers] at hucells huhit
  refine ⟨t, u, ht, hu, fun col hcol row hrow => ?_, ?_⟩
  · rw [hucells col hcol row hrow, htcells col hcol row hrow]
    split
    · rw [BitVec.xor_assoc, BitVec.xor_self, BitVec.xor_zero]
    · rfl
  · rintro ⟨col, hcol, row, hrow, hcovered, hzero⟩
    refine huhit ⟨col, hcol, row, hrow, hcovered, ?_⟩
    rw [htcells col hcol row hrow, if_pos hcovered, hzero]
    rfl

end Sys2Proof.Machine
end
